-- ==== Sys2Proof/Word.lean ====
section
/-! DEFINITION. The plain bit-vector types of the block (00_scope.md R13: bit 0 is the least significant bit). -/

namespace Sys2Proof

/-- A 32-bit register, register write datum or response `RDATA` (40_host_registers.md R200). -/
abbrev Word := BitVec 32

/-- One byte of a pixel buffer slot (10_state.md R53). -/
abbrev Byte := BitVec 8

/-- One host bus transaction: 50 bits in one format (30_encoding.md R150). -/
abbrev Transaction := BitVec 50

end Sys2Proof
end

