-- ==== Sys2Proof/Syntax.lean ====
section
/-! DEFINITION. The host bus transactions of the opcode map (30_encoding.md R158): one constructor for each row of
spec/opcode_table.json. The block has no instruction stream (00_scope.md R4): these are what the HOST agent can ask of it.
A write carries its whole `DATA` field, reserved bits included; a read ignores `DATA` (30_encoding.md R150) and carries none. -/

namespace Sys2Proof

inductive Instr where
  /-- `RD_ID` (40_host_registers.md R201). -/
  | rdId
  /-- `RD_CTRL` (R202). -/
  | rdCtrl
  /-- `WR_CTRL` (R203). -/
  | wrCtrl (data : Word)
  /-- `RD_STATUS` (R204). -/
  | rdStatus
  /-- `WR_STATUS` (R205). -/
  | wrStatus (data : Word)
  /-- `RD_BRIGHT` (R206). -/
  | rdBright
  /-- `WR_BRIGHT` (R207). -/
  | wrBright (data : Word)
  /-- `RD_SWAP` (R208). -/
  | rdSwap
  /-- `WR_SWAP` (R209). -/
  | wrSwap (data : Word)
  /-- `RD_SCAN_US` (R210). -/
  | rdScanUs
  /-- `WR_SCAN_US` (R211). -/
  | wrScanUs (data : Word)
  /-- `RD_SCAN_ACH` (R212). -/
  | rdScanAch
  /-- `RD_DIV` (R213). -/
  | rdDiv
  /-- `RD_PERIOD` (R220). -/
  | rdPeriod
  /-- `RD_ONCNT` (R221). -/
  | rdOncnt
  /-- `RD_TICKCNT` (R222). -/
  | rdTickcnt
  /-- `RD_FRAMECNT` (R223). -/
  | rdFramecnt
  /-- `RD_GEOM0` (R214). -/
  | rdGeom0
  /-- `WR_GEOM0` (R215). -/
  | wrGeom0 (data : Word)
  /-- `RD_GEOM1` (R216). -/
  | rdGeom1
  /-- `WR_GEOM1` (R217). -/
  | wrGeom1 (data : Word)
  /-- `RD_POL` (R218). -/
  | rdPol
  /-- `WR_POL` (R219). -/
  | wrPol (data : Word)
  /-- `RD_MUXSET`, entries 0 to 31 (R224). -/
  | rdMuxset (idx : BitVec 5)
  /-- `RD_MUXSET32`, the entry 32 (R225). -/
  | rdMuxset32
  /-- `RD_MUXCLR`, entries 0 to 31 (R226). -/
  | rdMuxclr (idx : BitVec 5)
  /-- `RD_MUXCLR32`, the entry 32 (R227). -/
  | rdMuxclr32
  /-- `RD8_BACK` (42_buffer_access.md R281). -/
  | rd8Back (i : BitVec 12)
  /-- `RD16_BACK` (R282). -/
  | rd16Back (i : BitVec 12)
  /-- `RD32_BACK` (R283). -/
  | rd32Back (i : BitVec 12)
  /-- `WR8_BACK` (R284). -/
  | wr8Back (i : BitVec 12) (data : Word)
  /-- `WR16_BACK` (R285). -/
  | wr16Back (i : BitVec 12) (data : Word)
  /-- `WR32_BACK` (R286). -/
  | wr32Back (i : BitVec 12) (data : Word)
  /-- `RD8_FRONT` (R287). -/
  | rd8Front (i : BitVec 12)
  /-- `RD16_FRONT` (R288). -/
  | rd16Front (i : BitVec 12)
  /-- `RD32_FRONT` (R289). -/
  | rd32Front (i : BitVec 12)
  deriving DecidableEq, Repr

end Sys2Proof
end

