-- ==== Sys2Proof/WellFormed.lean ====
section
/-! DEFINITION. Which instructions have an encoding: a halfword access of a buffer window is 2-aligned and a word access
4-aligned (20_memory.md R107, 30_encoding.md R155, R156). Every other operand has a type that admits legal values only. -/

namespace Sys2Proof

/-- A halfword may be accessed at byte index `i` (20_memory.md R107). -/
def halfAligned (i : BitVec 12) : Bool := i.toNat % 2 == 0

/-- A word may be accessed at byte index `i` (20_memory.md R107). -/
def wordAligned (i : BitVec 12) : Bool := i.toNat % 4 == 0

/-- The instruction has an encoding in the opcode map (30_encoding.md R155 to R158). -/
def Instr.wellFormed : Instr → Bool
  | .rdId => true
  | .rdCtrl => true
  | .wrCtrl _ => true
  | .rdStatus => true
  | .wrStatus _ => true
  | .rdBright => true
  | .wrBright _ => true
  | .rdSwap => true
  | .wrSwap _ => true
  | .rdScanUs => true
  | .wrScanUs _ => true
  | .rdScanAch => true
  | .rdDiv => true
  | .rdPeriod => true
  | .rdOncnt => true
  | .rdTickcnt => true
  | .rdFramecnt => true
  | .rdGeom0 => true
  | .wrGeom0 _ => true
  | .rdGeom1 => true
  | .wrGeom1 _ => true
  | .rdPol => true
  | .wrPol _ => true
  | .rdMuxset _ => true
  | .rdMuxset32 => true
  | .rdMuxclr _ => true
  | .rdMuxclr32 => true
  | .rd8Back _ => true
  | .rd16Back i => halfAligned i
  | .rd32Back i => wordAligned i
  | .wr8Back _ _ => true
  | .wr16Back i _ => halfAligned i
  | .wr32Back i _ => wordAligned i
  | .rd8Front _ => true
  | .rd16Front i => halfAligned i
  | .rd32Front i => wordAligned i

end Sys2Proof
end

