-- ==== Sys2Proof/Decode.lean ====
section
/-! DEFINITION. The encoding of host transactions (30_encoding.md): the one 50-bit format, the complete decode, the
encoder, and the opcode map as a table of match and mask values. The decoder works on the fields (R150, R155 to R157);
that it agrees with the table (R154, R158) is a statement, not an assumption. -/

namespace Sys2Proof

/-- Why a transaction matches no row of the opcode map (30_encoding.md R160). Each of these is the same bus error. -/
inductive DecodeError where
  /-- The size code 11. -/
  | reservedSize
  /-- A control register accessed with a size other than a word. -/
  | registerNotWord
  /-- A control register offset that is no multiple of 4. -/
  | misalignedRegister
  /-- A halfword or word access of a buffer window at a misaligned offset. -/
  | misalignedBuffer
  /-- A write to a read-only register. -/
  | readOnlyRegister
  /-- A write to the FRONT window. -/
  | frontWindowWrite
  /-- An offset the opcode map does not list. -/
  | unlistedOffset
  deriving DecidableEq, Repr

/-- `SZ = T[49:48]` (30_encoding.md R150). -/
def sizeField (t : Transaction) : BitVec 2 := t.extractLsb' 48 2

/-- `WR = T[47]`: the transaction is a write (30_encoding.md R150). -/
def isWrite (t : Transaction) : Bool := t.getLsbD 47

/-- `OFF = T[46:32]`, the byte offset in the host window (30_encoding.md R150). -/
def offField (t : Transaction) : BitVec 15 := t.extractLsb' 32 15

/-- `DATA = T[31:0]` (30_encoding.md R150). -/
def dataField (t : Transaction) : Word := t.extractLsb' 0 32

/-- The 50 bits of a transaction from its four fields (30_encoding.md R150). -/
def assemble (sz : BitVec 2) (wr : Bool) (off : BitVec 15) (data : Word) : Transaction :=
  sz ++ BitVec.ofBool wr ++ off ++ data

/-- One control register: its offset, the instruction that reads it and, unless it is read-only, the one that writes it. -/
structure RegRow where
  offset : BitVec 15
  rd : Instr
  wr : Option (Word → Instr)

/-- The control registers at a single offset (40_host_registers.md R200). The mux table registers 0 to 31 are decoded by
`decodeReg` itself. -/
def regMap : List RegRow :=
  [⟨0x000#15, .rdId, none⟩,
   ⟨0x004#15, .rdCtrl, some .wrCtrl⟩,
   ⟨0x008#15, .rdStatus, some .wrStatus⟩,
   ⟨0x00C#15, .rdBright, some .wrBright⟩,
   ⟨0x010#15, .rdSwap, some .wrSwap⟩,
   ⟨0x014#15, .rdScanUs, some .wrScanUs⟩,
   ⟨0x018#15, .rdScanAch, none⟩,
   ⟨0x01C#15, .rdDiv, none⟩,
   ⟨0x020#15, .rdPeriod, none⟩,
   ⟨0x024#15, .rdOncnt, none⟩,
   ⟨0x028#15, .rdTickcnt, none⟩,
   ⟨0x02C#15, .rdFramecnt, none⟩,
   ⟨0x030#15, .rdGeom0, some .wrGeom0⟩,
   ⟨0x034#15, .rdGeom1, some .wrGeom1⟩,
   ⟨0x038#15, .rdPol, some .wrPol⟩,
   ⟨0x180#15, .rdMuxset32, none⟩,
   ⟨0x280#15, .rdMuxclr32, none⟩]

/-- A word access below offset 0x1000 (30_encoding.md R157): the exact offset of a register, or `0x100 + 4*idx` or
`0x200 + 4*idx` with `idx = OFF[6:2]`. -/
def decodeReg (wr : Bool) (off : BitVec 15) (data : Word) : Except DecodeError Instr :=
  if off.extractLsb' 0 2 ≠ 0#2 then .error .misalignedRegister
  else if off.extractLsb' 7 8 = 2#8 then
    if wr then .error .readOnlyRegister else .ok (.rdMuxset (off.extractLsb' 2 5))
  else if off.extractLsb' 7 8 = 4#8 then
    if wr then .error .readOnlyRegister else .ok (.rdMuxclr (off.extractLsb' 2 5))
  else
    match regMap.find? (fun r => r.offset == off) with
    | none => .error .unlistedOffset
    | some r =>
      if wr then
        match r.wr with
        | some mk => .ok (mk data)
        | none => .error .readOnlyRegister
      else .ok r.rd

/-- An access of the BACK window, sizes 00, 01 and 10 (30_encoding.md R155, R156); `i = OFF[11:0]`. -/
def decodeBack (sz : BitVec 2) (wr : Bool) (i : BitVec 12) (data : Word) : Except DecodeError Instr :=
  if sz = 0#2 then .ok (if wr then .wr8Back i data else .rd8Back i)
  else if sz = 1#2 then
    if halfAligned i then .ok (if wr then .wr16Back i data else .rd16Back i) else .error .misalignedBuffer
  else
    if wordAligned i then .ok (if wr then .wr32Back i data else .rd32Back i) else .error .misalignedBuffer

/-- An access of the FRONT window, sizes 00, 01 and 10 (30_encoding.md R155): read only. -/
def decodeFront (sz : BitVec 2) (wr : Bool) (i : BitVec 12) : Except DecodeError Instr :=
  if wr then .error .frontWindowWrite
  else if sz = 0#2 then .ok (.rd8Front i)
  else if sz = 1#2 then
    if halfAligned i then .ok (.rd16Front i) else .error .misalignedBuffer
  else
    if wordAligned i then .ok (.rd32Front i) else .error .misalignedBuffer

/-- The complete decoder, total on all 2^50 transactions (30_encoding.md R154): an instruction, or by name why there is
none. The window of an offset is `OFF[14:12]`: registers (0), BACK (1), FRONT (2), reserved (20_memory.md R101). -/
def decode (t : Transaction) : Except DecodeError Instr :=
  if sizeField t = 3#2 then .error .reservedSize
  else if (offField t).extractLsb' 12 3 = 0#3 then
    if sizeField t = 2#2 then decodeReg (isWrite t) (offField t) (dataField t) else .error .registerNotWord
  else if (offField t).extractLsb' 12 3 = 1#3 then
    decodeBack (sizeField t) (isWrite t) ((offField t).extractLsb' 0 12) (dataField t)
  else if (offField t).extractLsb' 12 3 = 2#3 then
    decodeFront (sizeField t) (isWrite t) ((offField t).extractLsb' 0 12)
  else .error .unlistedOffset

/-- A read of the control register at `off`; its `DATA` bits, which a read ignores, are 0. -/
def encodeRegRead (off : BitVec 15) : Transaction := assemble 2#2 false off 0#32

/-- A write of `data` to the control register at `off`. -/
def encodeRegWrite (off : BitVec 15) (data : Word) : Transaction := assemble 2#2 true off data

/-- The encoder: the transaction of an instruction (30_encoding.md R150, R158). -/
def encode : Instr → Transaction
  | .rdId => encodeRegRead 0x000#15
  | .rdCtrl => encodeRegRead 0x004#15
  | .wrCtrl data => encodeRegWrite 0x004#15 data
  | .rdStatus => encodeRegRead 0x008#15
  | .wrStatus data => encodeRegWrite 0x008#15 data
  | .rdBright => encodeRegRead 0x00C#15
  | .wrBright data => encodeRegWrite 0x00C#15 data
  | .rdSwap => encodeRegRead 0x010#15
  | .wrSwap data => encodeRegWrite 0x010#15 data
  | .rdScanUs => encodeRegRead 0x014#15
  | .wrScanUs data => encodeRegWrite 0x014#15 data
  | .rdScanAch => encodeRegRead 0x018#15
  | .rdDiv => encodeRegRead 0x01C#15
  | .rdPeriod => encodeRegRead 0x020#15
  | .rdOncnt => encodeRegRead 0x024#15
  | .rdTickcnt => encodeRegRead 0x028#15
  | .rdFramecnt => encodeRegRead 0x02C#15
  | .rdGeom0 => encodeRegRead 0x030#15
  | .wrGeom0 data => encodeRegWrite 0x030#15 data
  | .rdGeom1 => encodeRegRead 0x034#15
  | .wrGeom1 data => encodeRegWrite 0x034#15 data
  | .rdPol => encodeRegRead 0x038#15
  | .wrPol data => encodeRegWrite 0x038#15 data
  | .rdMuxset idx => encodeRegRead (2#8 ++ idx ++ 0#2)
  | .rdMuxset32 => encodeRegRead 0x180#15
  | .rdMuxclr idx => encodeRegRead (4#8 ++ idx ++ 0#2)
  | .rdMuxclr32 => encodeRegRead 0x280#15
  | .rd8Back i => assemble 0#2 false (1#3 ++ i) 0#32
  | .rd16Back i => assemble 1#2 false (1#3 ++ i) 0#32
  | .rd32Back i => assemble 2#2 false (1#3 ++ i) 0#32
  | .wr8Back i data => assemble 0#2 true (1#3 ++ i) data
  | .wr16Back i data => assemble 1#2 true (1#3 ++ i) data
  | .wr32Back i data => assemble 2#2 true (1#3 ++ i) data
  | .rd8Front i => assemble 0#2 false (2#3 ++ i) 0#32
  | .rd16Front i => assemble 1#2 false (2#3 ++ i) 0#32
  | .rd32Front i => assemble 2#2 false (2#3 ++ i) 0#32

/-- The mnemonic of an instruction's row of the opcode map (30_encoding.md R158). -/
def Instr.mnemonic : Instr → String
  | .rdId => "RD_ID"
  | .rdCtrl => "RD_CTRL"
  | .wrCtrl _ => "WR_CTRL"
  | .rdStatus => "RD_STATUS"
  | .wrStatus _ => "WR_STATUS"
  | .rdBright => "RD_BRIGHT"
  | .wrBright _ => "WR_BRIGHT"
  | .rdSwap => "RD_SWAP"
  | .wrSwap _ => "WR_SWAP"
  | .rdScanUs => "RD_SCAN_US"
  | .wrScanUs _ => "WR_SCAN_US"
  | .rdScanAch => "RD_SCAN_ACH"
  | .rdDiv => "RD_DIV"
  | .rdPeriod => "RD_PERIOD"
  | .rdOncnt => "RD_ONCNT"
  | .rdTickcnt => "RD_TICKCNT"
  | .rdFramecnt => "RD_FRAMECNT"
  | .rdGeom0 => "RD_GEOM0"
  | .wrGeom0 _ => "WR_GEOM0"
  | .rdGeom1 => "RD_GEOM1"
  | .wrGeom1 _ => "WR_GEOM1"
  | .rdPol => "RD_POL"
  | .wrPol _ => "WR_POL"
  | .rdMuxset _ => "RD_MUXSET"
  | .rdMuxset32 => "RD_MUXSET32"
  | .rdMuxclr _ => "RD_MUXCLR"
  | .rdMuxclr32 => "RD_MUXCLR32"
  | .rd8Back _ => "RD8_BACK"
  | .rd16Back _ => "RD16_BACK"
  | .rd32Back _ => "RD32_BACK"
  | .wr8Back _ _ => "WR8_BACK"
  | .wr16Back _ _ => "WR16_BACK"
  | .wr32Back _ _ => "WR32_BACK"
  | .rd8Front _ => "RD8_FRONT"
  | .rd16Front _ => "RD16_FRONT"
  | .rd32Front _ => "RD32_FRONT"

/-- One row of the opcode map. -/
structure OpcodeRow where
  mnemonic : String
  pattern : Transaction
  mask : Transaction
  deriving DecidableEq, Repr

/-- `T & x.mask = x.match` (30_encoding.md R154). -/
def OpcodeRow.hits (x : OpcodeRow) (t : Transaction) : Bool := t &&& x.mask == x.pattern

/-- The complete opcode map (30_encoding.md R158). -/
def opcodeMap : List OpcodeRow :=
   [⟨"RD_ID", 0x2000000000000#50, 0x3FFFF00000000#50⟩,
    ⟨"RD_CTRL", 0x2000400000000#50, 0x3FFFF00000000#50⟩,
    ⟨"WR_CTRL", 0x2800400000000#50, 0x3FFFF00000000#50⟩,
    ⟨"RD_STATUS", 0x2000800000000#50, 0x3FFFF00000000#50⟩,
    ⟨"WR_STATUS", 0x2800800000000#50, 0x3FFFF00000000#50⟩,
    ⟨"RD_BRIGHT", 0x2000C00000000#50, 0x3FFFF00000000#50⟩,
    ⟨"WR_BRIGHT", 0x2800C00000000#50, 0x3FFFF00000000#50⟩,
    ⟨"RD_SWAP", 0x2001000000000#50, 0x3FFFF00000000#50⟩,
    ⟨"WR_SWAP", 0x2801000000000#50, 0x3FFFF00000000#50⟩,
    ⟨"RD_SCAN_US", 0x2001400000000#50, 0x3FFFF00000000#50⟩,
    ⟨"WR_SCAN_US", 0x2801400000000#50, 0x3FFFF00000000#50⟩,
    ⟨"RD_SCAN_ACH", 0x2001800000000#50, 0x3FFFF00000000#50⟩,
    ⟨"RD_DIV", 0x2001C00000000#50, 0x3FFFF00000000#50⟩,
    ⟨"RD_PERIOD", 0x2002000000000#50, 0x3FFFF00000000#50⟩,
    ⟨"RD_ONCNT", 0x2002400000000#50, 0x3FFFF00000000#50⟩,
    ⟨"RD_TICKCNT", 0x2002800000000#50, 0x3FFFF00000000#50⟩,
    ⟨"RD_FRAMECNT", 0x2002C00000000#50, 0x3FFFF00000000#50⟩,
    ⟨"RD_GEOM0", 0x2003000000000#50, 0x3FFFF00000000#50⟩,
    ⟨"WR_GEOM0", 0x2803000000000#50, 0x3FFFF00000000#50⟩,
    ⟨"RD_GEOM1", 0x2003400000000#50, 0x3FFFF00000000#50⟩,
    ⟨"WR_GEOM1", 0x2803400000000#50, 0x3FFFF00000000#50⟩,
    ⟨"RD_POL", 0x2003800000000#50, 0x3FFFF00000000#50⟩,
    ⟨"WR_POL", 0x2803800000000#50, 0x3FFFF00000000#50⟩,
    ⟨"RD_MUXSET", 0x2010000000000#50, 0x3FF8300000000#50⟩,
    ⟨"RD_MUXSET32", 0x2018000000000#50, 0x3FFFF00000000#50⟩,
    ⟨"RD_MUXCLR", 0x2020000000000#50, 0x3FF8300000000#50⟩,
    ⟨"RD_MUXCLR32", 0x2028000000000#50, 0x3FFFF00000000#50⟩,
    ⟨"RD8_BACK", 0x0100000000000#50, 0x3F00000000000#50⟩,
    ⟨"RD16_BACK", 0x1100000000000#50, 0x3F00100000000#50⟩,
    ⟨"RD32_BACK", 0x2100000000000#50, 0x3F00300000000#50⟩,
    ⟨"WR8_BACK", 0x0900000000000#50, 0x3F00000000000#50⟩,
    ⟨"WR16_BACK", 0x1900000000000#50, 0x3F00100000000#50⟩,
    ⟨"WR32_BACK", 0x2900000000000#50, 0x3F00300000000#50⟩,
    ⟨"RD8_FRONT", 0x0200000000000#50, 0x3F00000000000#50⟩,
    ⟨"RD16_FRONT", 0x1200000000000#50, 0x3F00100000000#50⟩,
    ⟨"RD32_FRONT", 0x2200000000000#50, 0x3F00300000000#50⟩]

/-- The instruction the decoder reads from the transaction whose bits are `w`. The bus has 50 lines: a bit of `w` above
bit 49 is on none of them. -/
def decodeTableWord (nbits w : Nat) : Option Instr :=
  (decode (BitVec.ofNat 50 (w % 2 ^ nbits))).toOption

end Sys2Proof
end

