-- ==== Sys2Proof/Config.lean ====
section
/-! DEFINITION. What an implementation fixes (00_scope.md R9, R10) and the values the spec leaves free
(93_implementation_defined.md U1, U2, U4, U5). The `opaque` constants have no body: no proof can see their values. -/

namespace Sys2Proof

/-- The two variants of the block (00_scope.md R2, 10_state.md R30). -/
inductive Backend where
  /-- The register/timer backend. -/
  | reg
  /-- The programmable-I/O and DMA backend. -/
  | pio
  deriving DecidableEq, Repr, Inhabited

/-- The agents of the model (00_scope.md R17). The attached panel has no step of its own: it reacts to output events. -/
inductive Agent where
  /-- The foreground context: one bus transaction a step. -/
  | host
  /-- The row-advance timer: one count a step. -/
  | timer
  /-- The Refresh State Machine: one sub-phase a step. -/
  | seq
  /-- The copy engine of the swap arbiter: one byte a step. -/
  | copy
  /-- The PIO data shifter with its DMA channel: one byte a step. -/
  | shift
  /-- The PIO state machine that drives the mux lines. -/
  | muxsm
  deriving DecidableEq, Repr, Inhabited

/-- The implementation parameters of 00_scope.md R9. The three numeric ones are held less one in a bounded type, so that
every value of this structure is one R9 admits: read them through `Params.fTimerHz`, `Params.timerWidth` and `Params.divMax`. -/
structure Params where
  /-- `BACKEND`. -/
  backend : Backend
  /-- `F_TIMER_HZ - 1`. -/
  fTimerHzPred : Nat
  /-- `TIMER_WIDTH - 1`. -/
  timerWidthPred : Fin 31
  /-- `DIV_MAX - 1`. -/
  divMaxPred : Fin 4294967295
  /-- `DMDSE_BASE`, where the platform puts the host window: read by no rule (20_memory.md R112). -/
  dmdseBase : Nat
  deriving DecidableEq, Repr, Inhabited

/-- `F_TIMER_HZ`, the timer input clock in hertz, at least 1 (00_scope.md R9). -/
def Params.fTimerHz (p : Params) : Nat := p.fTimerHzPred + 1

/-- `TIMER_WIDTH`, the timer counter width `W`, from 1 to 31 (00_scope.md R9). -/
def Params.timerWidth (p : Params) : Nat := p.timerWidthPred.val + 1

/-- `DIV_MAX`, the largest clock divider, from 1 to 2^32 - 1 (00_scope.md R9). -/
def Params.divMax (p : Params) : Nat := p.divMaxPred.val + 1

/-- `NROWS_MAX`, the largest row-multiplex depth (00_scope.md R10). -/
@[simp, reducible] def Config.nrowsMax : Nat := 32

/-- `BUF_BYTES`, the bytes of one buffer slot (00_scope.md R10). -/
@[simp, reducible] def Config.bufBytes : Nat := 4096

/-- The parameters of this machine. OPEN in the spec (00_scope.md R9, 93_implementation_defined.md U4, U5): no value
is chosen here, and whatever is proved of `State.reset` holds for every one of them. -/
opaque Config.params : Params

/-- The unspecified bits of the attached panel (10_state.md R76, 93_implementation_defined.md U1): the `n`-th bit drawn.
A free value. -/
opaque Config.freeBit : Nat → Bool

/-- The schedule beyond the turns that `State` lists (93_implementation_defined.md U2): the agent that gets the `n`-th
turn the oracle decides. A free value. -/
opaque Config.pick : Nat → Agent

end Sys2Proof
end

