-- ==== Sys2Proof/Machine/Memory.lean ====
section
/-! DEFINITION. Byte memory as a list of (address, byte) cells in one canonical form: addresses strictly rising, and no
cell holds what an unlisted address reads as. The buffer store is one such memory (20_memory.md R100). -/

namespace Sys2Proof.Machine

/-- A memory: the cells whose byte differs from `Memory.unlisted`. -/
abbrev Memory := List Host.Cell

/-- What an unlisted address reads as: the reset contents of every buffer byte, 0x00 (10_state.md R53). -/
def Memory.unlisted : Byte := 0x00#8

/-- The byte at address `a`. -/
def Memory.read (m : Memory) (a : Nat) : Byte :=
  match m with
  | [] => Memory.unlisted
  | (b, w) :: rest => if b = a then w else Memory.read rest a

/-- `m` with byte `v` at address `a`. Writing the byte an unlisted address reads as removes the cell. -/
def Memory.write (m : Memory) (a : Nat) (v : Byte) : Memory :=
  match m with
  | [] => if v = Memory.unlisted then [] else [(a, v)]
  | (b, w) :: rest =>
    if a < b then
      if v = Memory.unlisted then (b, w) :: rest else (a, v) :: (b, w) :: rest
    else if a = b then
      if v = Memory.unlisted then rest else (a, v) :: rest
    else (b, w) :: Memory.write rest a v

/-- Every address of the list is at least `lo`, they rise strictly, all lie below `hi`, and no cell holds the unlisted byte. -/
def Memory.canonicalFrom (lo hi : Nat) : Memory → Bool
  | [] => true
  | (a, v) :: rest => decide (lo ≤ a) && decide (a < hi) && decide (v ≠ Memory.unlisted) && Memory.canonicalFrom (a + 1) hi rest

/-- The addresses of the buffer store: slot `k` is at `4096 * k` to `4096 * k + 4095` (10_state.md R53). -/
def Memory.storeBytes : Nat := 8192

/-- The canonical form of the buffer store. -/
def Memory.wf (m : Memory) : Bool := Memory.canonicalFrom 0 Memory.storeBytes m

/-- `n` unspecified panel bits, those from the `d`-th draw on (93_implementation_defined.md U1). -/
def drawBits (d n : Nat) : List Bool := (List.range n).map (fun k => Config.freeBit (d + k))

end Sys2Proof.Machine
end

