-- ==== Sys2Proof/Machine/State.lean ====
section
/-! DEFINITION. The state record `s` of 10_state.md, one field for each component the spec names and, after them, the
fields the model adds (the parameters, the host's side of the bus, the schedule, the draws), with the state after reset. -/

namespace Sys2Proof.Machine

/-- The output events of the trace (10_state.md R70). -/
inductive Event where
  /-- The mux lines now carry `v`. -/
  | muxSet (v : Word)
  /-- The data line is set to `d`, then one shift-clock pulse. -/
  | bit (d : Bool)
  /-- One latch pulse. -/
  | latch
  /-- The light window closes. -/
  | oeOff
  /-- The light window opens for `n` counts. -/
  | oeOn (n : Nat)
  deriving DecidableEq, Repr

/-- One turn of the schedule: an agent's (00_scope.md R17), or the platform's reset input (70_reset_and_hazards.md R530). -/
inductive Turn where
  | agent (a : Agent)
  | reset
  deriving DecidableEq, Repr

/-- One array of the mux mask table: `MUXTAB_ENTRIES = 33` words (10_state.md R44). -/
abbrev MuxTab := Vector Word 33

/-- The reasons a step stops the machine with a fault. There is none: the two faults of this hardware are sticky status
bits, the block goes on, and "No other exception, trap or error exists" (60_exceptions.md R470, R474). -/
inductive Fault where
  deriving DecidableEq, Repr

/-- The reasons a step is refused. -/
inductive Refusal where
  /-- Raised by `exec` for an instruction that has no meaning in the model: no arm does. Safe: the model stops. -/
  | notModelled (mnemonic : String)
  deriving DecidableEq, Repr

/-- The whole state record. The rule named is the one of 10_state.md that gives the component. -/
structure State where
  /-- R33. The refresh cycle runs. -/
  run : Bool
  /-- R34. Double-buffered. -/
  db : Bool
  /-- R35. The index of the front slot when double-buffered. -/
  front : Fin 2
  /-- R36. The brightness. -/
  bright : BitVec 8
  /-- R37. The requested scan interval in microseconds. -/
  scanUs : Word
  /-- R38. The integer clock divider, 0 before the first start. -/
  div : Nat
  /-- R38. The timer counts per row period, 0 before the first start. -/
  period : Nat
  /-- R38. The achieved row period in microseconds. -/
  achUs : Word
  /-- R39. A `SCAN_US` write waits for the next tick. -/
  reloadPending : Bool
  /-- R40. Panel width in pixels. -/
  pw : BitVec 8
  /-- R40. Panel height in pixels. -/
  ph : BitVec 8
  /-- R40. Panels wide. -/
  nx : BitVec 4
  /-- R40. Panels high. -/
  ny : BitVec 4
  /-- R41. The row-multiplex depth. -/
  nrows : BitVec 6
  /-- R41. The number of mux select lines. -/
  muxcnt : BitVec 6
  /-- R42. The level of a direct-mux select line for the selected row. -/
  selLvl : Bool
  /-- R42. The serial data output is inverted. -/
  dataInv : Bool
  /-- R42. The OE pin is active low. -/
  oeLow : Bool
  /-- R43. Sticky: a start was refused. -/
  cfgerr : Bool
  /-- R43. Sticky: a bus error happened. -/
  berr : Bool
  /-- R44. The set half of the mux mask table. -/
  muxset : MuxTab
  /-- R44. The clear half of the mux mask table. -/
  muxclr : MuxTab
  /-- R45. Ticks, modulo 2^32. -/
  tickcnt : Word
  /-- R45. Frame boundaries, modulo 2^32. -/
  framecnt : Word
  /-- R46. The light-window length in timer counts. -/
  onCnt : Nat
  /-- R47. The row the next burst selects and latches. -/
  row : Nat
  /-- R48. The Refresh Phase Counter. -/
  phase : Fin 4
  /-- R49. A burst is in progress. -/
  busy : Bool
  /-- R50. The lookahead index: the mux table entry the next phase 0 applies. -/
  nm : Nat
  /-- R51. The row timer's counter. -/
  cnt : Nat
  /-- R52. The light window has been opened. -/
  oeArmed : Bool
  /-- R53. The buffer store: byte `i` of slot `k` is at address `4096 * k + i`. -/
  store : Memory
  /-- R55. The swap-request flag. -/
  swapReq : Bool
  /-- R55. The `copy_on_swap` argument of the pending request. -/
  copyReq : Bool
  /-- R56. The copy engine runs. -/
  copyBusy : Bool
  /-- R56. The next byte the copy engine copies. -/
  copyIdx : Nat
  /-- R57. Bytes the PIO shifter has still to shift. -/
  shRem : Nat
  /-- R57. The PIO shifter's next byte offset. -/
  shSrc : Nat
  /-- R57. The slot the PIO shifter reads. -/
  shSlot : Fin 2
  /-- R58. The row index the PIO mux state machine has still to drive. -/
  muxPend : Option Nat
  /-- R59. The levels of the mux select lines. -/
  muxLvl : Word
  /-- R59. The level of the data line. -/
  dataLvl : Bool
  /-- R59. The level of the shift-clock line between steps. -/
  clkLvl : Bool
  /-- R59. The level of the latch line between steps. -/
  latLvl : Bool
  /-- R70. The output trace, oldest event first. -/
  trace : List Event
  /-- R76. The attached panel chain's shift register: index 0 is the far end of the chain (45_backends.md R450). -/
  panelSr : List Bool
  /-- R76. The attached panel chain's latch register. -/
  panelLr : List Bool
  /-- The model's own. The implementation parameters of 00_scope.md R9: no step changes them. -/
  par : Params
  /-- The model's own. The transactions the host has still to issue, in program order (20_memory.md R122). -/
  hostq : List Transaction
  /-- The model's own. `RDATA`, the response to the last transaction performed: `none` after a write, which returns
  nothing (30_encoding.md R150), and while none has been performed since reset. -/
  rdata : Option Word
  /-- The model's own. The turns of the schedule that are laid down, the next one first (93_implementation_defined.md U2). -/
  turns : List Turn
  /-- The model's own. How many turns the oracle `Config.pick` has decided. -/
  turn : Nat
  /-- The model's own. How many unspecified panel bits have been drawn (93_implementation_defined.md U1). -/
  draws : Nat
  deriving DecidableEq, Repr

/-- The length of the panel's registers for the reset geometry: `L = 64` (00_scope.md R12, 10_state.md R40, R41). -/
def State.resetPanelBits : Nat := 64

/-- The state after reset of a block with parameters `p` (70_reset_and_hazards.md R530), its panel bits those from the
`d`-th draw on. -/
def State.resetAt (p : Params) (d : Nat) : State where
  run := false
  db := true
  front := 0
  bright := 0xFF#8
  scanUs := 2000#32
  div := 0
  period := 0
  achUs := 0#32
  reloadPending := false
  pw := 32#8
  ph := 16#8
  nx := 2#4
  ny := 1#4
  nrows := 16#6
  muxcnt := 16#6
  selLvl := false
  dataInv := false
  oeLow := false
  cfgerr := false
  berr := false
  muxset := Vector.replicate 33 0#32
  muxclr := Vector.replicate 33 0#32
  tickcnt := 0#32
  framecnt := 0#32
  onCnt := 0
  row := 0
  phase := 0
  busy := false
  nm := 0
  cnt := 0
  oeArmed := false
  store := []
  swapReq := false
  copyReq := false
  copyBusy := false
  copyIdx := 0
  shRem := 0
  shSrc := 0
  shSlot := 0
  muxPend := none
  muxLvl := 0#32
  dataLvl := false
  clkLvl := false
  latLvl := false
  trace := []
  panelSr := drawBits d State.resetPanelBits
  panelLr := drawBits (d + State.resetPanelBits) State.resetPanelBits
  par := p
  hostq := []
  rdata := none
  turns := []
  turn := 0
  draws := d + State.resetPanelBits + State.resetPanelBits

/-- The machine right after reset (70_reset_and_hazards.md R530), with the parameters of this machine, whatever they are. -/
def State.reset : State := State.resetAt Config.params 0

end Sys2Proof.Machine
end

