-- ==== Sys2Proof/Machine/Ops.lean ====
section
/-! DEFINITION. The shared operations: the slot aliases and derived sizes, the buffer store's bytes and the host's view of
them, the response to a transaction, the two faults, the output events with the pins and the panel they change, and the
tick's entry to a burst and return from it (the one interrupt, 60_exceptions.md R480 to R484). -/

namespace Sys2Proof.Machine

/-! ### Slot aliases and derived sizes -/

/-- The front slot, the one being scanned (10_state.md R54). -/
def fslot (s : State) : Fin 2 := if s.db then s.front else 0

/-- The back slot, the one being drawn into (10_state.md R54). -/
def bslot (s : State) : Fin 2 := if s.db then 1 - s.front else 0

/-- `G`, the panel lines driven per mux row (00_scope.md R12). With `NROWS = 0`, no valid configuration: DESIGN CHOICE, 0
(log entry 22). -/
def groupLines (s : State) : Nat := s.ph.toNat / s.nrows.toNat

/-- `NP`, the number of panels (00_scope.md R12). -/
def numPanels (s : State) : Nat := s.nx.toNat * s.ny.toNat

/-- `SIZE`, the bytes of one frame (00_scope.md R12). -/
def frameBytes (s : State) : Nat := numPanels s * s.pw.toNat * s.ph.toNat / 8

/-- `RB`, the bytes shifted per row (00_scope.md R12). With `NROWS = 0`, no valid configuration: DESIGN CHOICE, 0 (log entry
22). -/
def rowBytes (s : State) : Nat := frameBytes s / s.nrows.toNat

/-- `L`, the bits shifted per row and the length of the panel chain (00_scope.md R12). -/
def chainBits (s : State) : Nat := 8 * rowBytes s

/-- A direct mux: one select line for each row (10_state.md R65). -/
def direct (s : State) : Bool := s.muxcnt == s.nrows

/-- A binary mux: the select lines carry the row number (10_state.md R65). -/
def binary (s : State) : Bool :=
  decide (1 ≤ s.muxcnt.toNat) && decide (s.muxcnt.toNat < s.nrows.toNat) && s.nrows.toNat == 2 ^ s.muxcnt.toNat

/-! ### The buffer store -/

/-- The address of byte `i` of slot `k` in the buffer store. -/
def cellAddr (k : Fin 2) (i : Nat) : Nat := Config.bufBytes * k.val + i

/-- `BufRead(slot, i)` (00_scope.md R15). A slot has the bytes 0 to 4095 only: beyond them there is none to read, and the
value is that of an unlisted address (no rule reads there, 20_memory.md R102). -/
def bufRead (k : Fin 2) (i : Nat) (s : State) : Byte :=
  if i < Config.bufBytes then Memory.read s.store (cellAddr k i) else Memory.unlisted

/-- `BufWrite(slot, i, v)` (00_scope.md R15). Beyond the slot there is no byte to write (no rule writes there, 20_memory.md
R102). -/
def bufWrite (k : Fin 2) (i : Nat) (v : Byte) (s : State) : State :=
  { s with store := if i < Config.bufBytes then Memory.write s.store (cellAddr k i) v else s.store }

/-- The slot a window offset names: BACK at 0x1000 to 0x1FFF, else FRONT (20_memory.md R105). -/
def windowSlot (a : Nat) (s : State) : Fin 2 := if 0x1000 ≤ a ∧ a ≤ 0x1FFF then bslot s else fslot s

/-- `MemRead(a, n)`, the little-endian host read (20_memory.md R103, R105). -/
def memRead (a n : Nat) (s : State) : Word :=
  BitVec.ofNat 32
    ((List.range n).map fun t => (bufRead (windowSlot a s) (a % 0x1000 + t) s).toNat * 2 ^ (8 * t)).sum

/-- `MemWrite(a, n, v)`, the little-endian host write through the BACK window (20_memory.md R103, R106). -/
def memWrite (a n : Nat) (v : Word) (s : State) : State :=
  (List.range n).foldl (fun u t => bufWrite (bslot s) (a - 0x1000 + t) (v.extractLsb' (8 * t) 8) u) s

/-! ### Responses and faults -/

/-- The response of a read: `RDATA` is `v` (30_encoding.md R150). -/
def respond (v : Word) (s : State) : State := { s with rdata := some v }

/-- A write returns nothing (30_encoding.md R150). -/
def acknowledge (s : State) : State := { s with rdata := none }

/-- `raise BusError`: the sticky `STATUS.BERR` is set (00_scope.md R16, 60_exceptions.md R470). -/
def raiseBusError (s : State) : State := { s with berr := true }

/-- `raise ConfigError`: the sticky `STATUS.CFGERR` is set and the block stays stopped (00_scope.md R16). -/
def raiseConfigError (s : State) : State := { s with cfgerr := true }

/-- A transaction refused with a bus error: nothing but `BERR` is set, and a read returns 0 (30_encoding.md R160). -/
def refuseTransaction (wr : Bool) (s : State) : State :=
  raiseBusError (if wr then acknowledge s else respond 0#32 s)

/-! ### Output events -/

/-- `emit E`: the event joins the trace (00_scope.md R15, 10_state.md R70). `Bit(d)` sets the data line and pulses the shift
clock, and the panel shifts `d` in (45_backends.md R430, R450); `Latch` pulses the latch line and the panel latches (R433,
R451). Both pulses end inside the step, at level 0 (10_state.md R59). The other events change no panel state (R452). -/
def emit (e : Event) (s : State) : State :=
  match e with
  | .bit d => { s with trace := s.trace ++ [e], dataLvl := d, clkLvl := false, panelSr := s.panelSr.tail ++ [d] }
  | .latch => { s with trace := s.trace ++ [e], latLvl := false, panelLr := s.panelSr }
  | .muxSet _ => { s with trace := s.trace ++ [e] }
  | .oeOff => { s with trace := s.trace ++ [e] }
  | .oeOn _ => { s with trace := s.trace ++ [e] }

/-- The events of a list, emitted in order. -/
def emitAll (es : List Event) (s : State) : State := es.foldl (fun u e => emit e u) s

/-- The mux lines now carry `v`: their level and the event `MuxSet(v)` together (45_backends.md R440, R441). -/
def driveMux (v : Word) (s : State) : State := emit (.muxSet v) { s with muxLvl := v }

/-! ### The tick: entry to a burst and return from it -/

/-- The entry of the one interrupt: the count restarts, `TICKCNT` counts the tick and the burst begins at sub-phase 0,
which `s.phase` is then at. Nothing is saved (60_exceptions.md R483, 43_refresh_sequencer.md R330). -/
def enterBurst (s : State) : State := { s with cnt := 0, tickcnt := s.tickcnt + 1#32, busy := true }

/-- The return: the phase counter is 0 again and the timer and the host may step. Nothing is restored
(60_exceptions.md R484, 43_refresh_sequencer.md R350). -/
def leaveBurst (s : State) : State := { s with phase := 0, busy := false }

/-! ### The platform's reset input -/

/-- The one reset replaces the block's whole state record (70_reset_and_hazards.md R530). The parameters never change
(00_scope.md R9); what the host has still to issue and the schedule are outside the block and stay. -/
def resetInput (s : State) : State :=
  { State.resetAt s.par s.draws with hostq := s.hostq, turns := s.turns, turn := s.turn }

end Sys2Proof.Machine
end

