-- ==== Sys2Proof/Machine/Operands.lean ====
section
/-! DEFINITION. Operand assembly (30_encoding.md R151): the fields a register write takes from fixed positions of `DATA`,
the others being ignored (R162), and the words a register read assembles from the state, reserved bits 0
(40_host_registers.md R200). -/

namespace Sys2Proof.Machine

/-- `CTRL.EN = DATA[0]` (40_host_registers.md R203). -/
def ctrlEn (data : Word) : Bool := data.getLsbD 0

/-- `CTRL.DB = DATA[1]` (R203). -/
def ctrlDb (data : Word) : Bool := data.getLsbD 1

/-- `BRIGHT.B = DATA[7:0]` (R207). -/
def brightB (data : Word) : BitVec 8 := data.extractLsb' 0 8

/-- `SWAP.REQ = DATA[0]` (R209). -/
def swapReqBit (data : Word) : Bool := data.getLsbD 0

/-- `SWAP.COPY = DATA[1]` (R209). -/
def swapCopyBit (data : Word) : Bool := data.getLsbD 1

/-- `GEOM0.PW = DATA[7:0]` (R215). -/
def geom0Pw (data : Word) : BitVec 8 := data.extractLsb' 0 8

/-- `GEOM0.PH = DATA[15:8]` (R215). -/
def geom0Ph (data : Word) : BitVec 8 := data.extractLsb' 8 8

/-- `GEOM0.NX = DATA[19:16]` (R215). -/
def geom0Nx (data : Word) : BitVec 4 := data.extractLsb' 16 4

/-- `GEOM0.NY = DATA[23:20]` (R215). -/
def geom0Ny (data : Word) : BitVec 4 := data.extractLsb' 20 4

/-- `GEOM1.NROWS = DATA[5:0]` (R217). -/
def geom1Nrows (data : Word) : BitVec 6 := data.extractLsb' 0 6

/-- `GEOM1.MUXCNT = DATA[13:8]` (R217). -/
def geom1Muxcnt (data : Word) : BitVec 6 := data.extractLsb' 8 6

/-- `POL.SEL_LVL = DATA[0]` (R219). -/
def polSelLvl (data : Word) : Bool := data.getLsbD 0

/-- `POL.DATA_INV = DATA[1]` (R219). -/
def polDataInv (data : Word) : Bool := data.getLsbD 1

/-- `POL.OE_LOW = DATA[2]` (R219). -/
def polOeLow (data : Word) : Bool := data.getLsbD 2

/-- The word whose bit `k` is `b` and whose other bits are 0. -/
def flagAt (b : Bool) (k : Nat) : Word := (BitVec.ofBool b).setWidth 32 <<< k

/-- The `ID` register: `BACKEND` in bit 0, `TIMER_WIDTH` in bits 15:8, `NROWS_MAX` in bits 23:16 (R201). -/
def idWord (s : State) : Word :=
  0#8 ++ BitVec.ofNat 8 Config.nrowsMax ++ BitVec.ofNat 8 s.par.timerWidth ++ 0#7 ++ BitVec.ofBool (s.par.backend == .pio)

/-- The `CTRL` register: `EN` in bit 0, `DB` in bit 1 (R202). -/
def ctrlWord (s : State) : Word := 0#30 ++ BitVec.ofBool s.db ++ BitVec.ofBool s.run

/-- The `GEOM0` register: `PW`, `PH`, `NX`, `NY` from bit 0 up (R214). -/
def geom0Word (s : State) : Word := 0#8 ++ s.ny ++ s.nx ++ s.ph ++ s.pw

/-- The `GEOM1` register: `NROWS` in bits 5:0, `MUXCNT` in bits 13:8 (R216). -/
def geom1Word (s : State) : Word := s.nrows.setWidth 32 ||| s.muxcnt.setWidth 32 <<< 8

/-- The `POL` register: `SEL_LVL`, `DATA_INV`, `OE_LOW` in bits 0 to 2 (R218). -/
def polWord (s : State) : Word := flagAt s.selLvl 0 ||| flagAt s.dataInv 1 ||| flagAt s.oeLow 2

/-- Entry `i` of an array of the mux mask table. The table has the entries 0 to 32 only (10_state.md R44): no rule reads
another. -/
def muxEntry (t : MuxTab) (i : Nat) : Word := t.toList.getD i 0#32

end Sys2Proof.Machine
end

