-- ==== Sys2Proof/Machine/MuxTable.lean ====
section
/-! DEFINITION. The mux mask table generator, the application of an entry to the mux lines, and the panel's decoding of the
lines (41_mux_table.md). -/

namespace Sys2Proof.Machine

/-- The line mask `lm = 2^muxcnt - 1` (41_mux_table.md R251). -/
def lineMask (s : State) : Word := BitVec.ofNat 32 (2 ^ s.muxcnt.toNat - 1)

/-- `lvl(i)`, the levels of the select lines for row `i`: one line at the select level and the others at the other level
for a direct mux (41_mux_table.md R252), the row number for a binary one (R253). -/
def muxLevel (s : State) (i : Nat) : Word :=
  if direct s then
    if s.selLvl then 1#32 <<< i else lineMask s &&& ~~~(1#32 <<< i)
  else BitVec.ofNat 32 i

/-- The entry of row `i`: its set and clear masks under REG (41_mux_table.md R254), its row number under PIO (R257). -/
def rowEntry (s : State) (i : Nat) : Word × Word :=
  match s.par.backend with
  | .reg => (muxLevel s i &&& lineMask s, ~~~(muxLevel s i) &&& lineMask s)
  | .pio => (BitVec.ofNat 32 i, 0#32)

/-- Entry `i` of the generated table: the rows, then the lookahead sentinel equal to entry 0, then zeros
(41_mux_table.md R256, R258). -/
def tableEntry (s : State) (i : Nat) : Word × Word :=
  if i < s.nrows.toNat then rowEntry s i
  else if i = s.nrows.toNat then rowEntry s 0
  else (0#32, 0#32)

/-- `generate_mux_table()` (41_mux_table.md R258). -/
def generateMuxTable (s : State) : State :=
  { s with
    muxset := Vector.ofFn fun i => (tableEntry s i.val).1
    muxclr := Vector.ofFn fun i => (tableEntry s i.val).2 }

/-- The lines after entry `k` is applied to them by the set/clear register pair: the set half's 1 bits go to 1, the clear
half's to 0, the other lines stay (41_mux_table.md R259). -/
def appliedLevels (s : State) (k : Nat) : Word := (s.muxLvl &&& ~~~(muxEntry s.muxclr k)) ||| muxEntry s.muxset k

/-- The select lines below `MUXCNT` that are at the select level, in rising order. -/
def selectedLines (s : State) (v : Word) : List Nat :=
  (List.range s.muxcnt.toNat).filter fun j => v.getLsbD j == s.selLvl

/-- `selrow(v)`: the row the panel selects for the line levels `v` (41_mux_table.md R260). -/
def selrow (s : State) (v : Word) : Option Nat :=
  if direct s then
    match selectedLines s v with
    | [j] => some j
    | _ => none
  else some (v &&& lineMask s).toNat

end Sys2Proof.Machine
end

