-- ==== Sys2Proof/Machine/Backends.lean ====
section
/-! DEFINITION. The backend adapters: the row shift and the mux drive under REG and PIO, and the PIO agents SHIFT and MUXSM
(45_backends.md). -/

namespace Sys2Proof.Machine

/-- The bits of a byte, most significant first (20_memory.md R110). -/
def byteBits (v : Byte) : List Bool := [7, 6, 5, 4, 3, 2, 1, 0].map fun b => v.getLsbD b

/-- The pin levels of the bits of one byte, most significant first: the pixel bit XOR `data_inv`
(20_memory.md R111, 45_backends.md R430). -/
def byteLevels (v : Byte) (s : State) : List Bool := (byteBits v).map fun d => d ^^ s.dataInv

/-- The pin levels of the `n` bytes of slot `k` from `base` on, in shifting order (20_memory.md R110, 45_backends.md R431). -/
def rowLevels (k : Fin 2) (base n : Nat) (s : State) : List Bool :=
  (List.range n).flatMap fun j => byteLevels (bufRead k (base + j) s) s

/-- REG `shift_row`: the whole row, synchronously (45_backends.md R431). -/
def shiftRowReg (k : Fin 2) (base : Nat) (s : State) : State :=
  emitAll ((rowLevels k base (rowBytes s) s).map .bit) s

/-- PIO `shift_row`: the transfer starts; SHIFT steps move the bytes (45_backends.md R434). -/
def shiftRowPio (k : Fin 2) (base : Nat) (s : State) : State :=
  { s with shSlot := k, shSrc := base, shRem := rowBytes s }

/-- `shift_row(k, base)` (45_backends.md R432). -/
def shiftRow (k : Fin 2) (base : Nat) (s : State) : State :=
  match s.par.backend with
  | .reg => shiftRowReg k base s
  | .pio => shiftRowPio k base s

/-- `apply_mux(k)`: under REG one write of the set/clear pair; under PIO the row index goes to the mux state machine
(45_backends.md R441, 41_mux_table.md R259). -/
def applyMux (k : Nat) (s : State) : State :=
  match s.par.backend with
  | .reg => driveMux (appliedLevels s k) s
  | .pio => { s with muxPend := some (muxEntry s.muxset k).toNat }

/-- SHIFT step: one byte, its eight bits most significant first (45_backends.md R435). -/
def shiftStep (s : State) : State :=
  let u := emitAll ((byteLevels (bufRead s.shSlot s.shSrc s) s).map .bit) s
  { u with shSrc := s.shSrc + 1, shRem := s.shRem - 1 }

/-- MUXSM step: drive the lines of the pending row (45_backends.md R440). Without a pending row there is nothing to do: the
step is not enabled. -/
def muxsmStep (s : State) : State :=
  match s.muxPend with
  | some i => { driveMux (muxLevel s i &&& lineMask s) s with muxPend := none }
  | none => s

end Sys2Proof.Machine
end

