-- ==== Sys2Proof/Machine/Swap.lean ====
section
/-! DEFINITION. The double-buffer swap arbiter and its copy engine (44_swap_arbiter.md). -/

namespace Sys2Proof.Machine

/-- `exchange()`: front and back change places, the request is over, and a requested copy starts
(44_swap_arbiter.md R383, R385). -/
def exchange (s : State) : State :=
  { s with
    front := 1 - s.front
    swapReq := false
    copyBusy := s.copyBusy || s.copyReq
    copyIdx := if s.copyReq then 0 else s.copyIdx
    copyReq := false }

/-- The arbiter is idle: no request pending and no copy running (44_swap_arbiter.md R381). -/
def arbiterIdle (s : State) : Bool := !s.swapReq && !s.copyBusy

/-- `request_swap(REQ, COPY)`: armed while running, performed at once while stopped, and otherwise a no-op
(44_swap_arbiter.md R382, R386). -/
def requestSwap (req copy : Bool) (s : State) : State :=
  if !req || !s.db || s.swapReq || s.copyBusy then s
  else if s.run then { s with swapReq := true, copyReq := copy }
  else exchange { s with copyReq := copy }

/-- COPY step: one byte of the front slot to the back slot; the last byte ends the copy (44_swap_arbiter.md R388). -/
def copyStep (s : State) : State :=
  let u := bufWrite (bslot s) s.copyIdx (bufRead (fslot s) s.copyIdx s) s
  { u with copyIdx := s.copyIdx + 1, copyBusy := !(s.copyIdx == Config.bufBytes - 1) }

end Sys2Proof.Machine
end

