-- ==== Sys2Proof/Machine/Timing.lean ====
section
/-! DEFINITION. The row timing computation (45_backends.md R420), its use, and the timing figures no rule depends on
(70_reset_and_hazards.md R570). -/

namespace Sys2Proof.Machine

/-- The divider, the counts per row period and the achieved row period of a requested one. -/
structure RowTiming where
  div : Nat
  period : Nat
  achUs : Nat
  deriving DecidableEq, Repr

/-- `ceil(a / b)` (45_backends.md R420). -/
def ceilDiv (a b : Nat) : Nat := (a + b - 1) / b

/-- `T`, the wanted input-clock cycles per row, rounded (45_backends.md R420). The sum is written with its constant first, so
that reduction stops at the variable. -/
def wantedCycles (f us : Nat) : Nat := max 1 ((500000 + us * f) / 1000000)

/-- `compute_timing(us)` for the timer clock `f`, the counter width `w` and the largest divider `divMax`
(45_backends.md R420), on natural numbers. -/
def computeTiming (f w divMax us : Nat) : RowTiming :=
  let t := wantedCycles f us
  let d := min divMax (max 1 (ceilDiv t (2 ^ w)))
  let p := min (2 ^ w) (max 1 ((t + d / 2) / d))
  { div := d, period := p, achUs := min 0xFFFFFFFF ((p * d * 1000000 + f / 2) / f) }

/-- `(s.div, s.period, s.ach_us) <- compute_timing(s.scan_us)` (43_refresh_sequencer.md R323, R331). -/
def loadTiming (s : State) : State :=
  let r := computeTiming s.par.fTimerHz s.par.timerWidth s.par.divMax s.scanUs.toNat
  { s with div := r.div, period := r.period, achUs := BitVec.ofNat 32 r.achUs }

/-- The row period in seconds (70_reset_and_hazards.md R570). -/
def rowPeriodSeconds (s : State) : ℚ := (s.period * s.div : Nat) / (s.par.fTimerHz : ℚ)

/-- The scan cycle period in seconds: `nrows` row periods (R570). -/
def framePeriodSeconds (s : State) : ℚ := s.nrows.toNat * rowPeriodSeconds s

/-- The refresh rate in hertz (R570). DESIGN CHOICE (log entry 22): 0 where the formula's denominator is 0, before the first
start or with `NROWS = 0`. -/
def refreshRateHz (s : State) : ℚ := (s.par.fTimerHz : ℚ) / (s.period * s.div * s.nrows.toNat : Nat)

/-- The light time per row in seconds (R570). -/
def lightSeconds (s : State) : ℚ := (s.onCnt * s.div : Nat) / (s.par.fTimerHz : ℚ)

end Sys2Proof.Machine
end

