-- ==== Sys2Proof/Machine/Sequencer.lean ====
section
/-! DEFINITION. Configuration validity, start and stop, the row timer, and the four sub-phases of a burst
(43_refresh_sequencer.md). -/

namespace Sys2Proof.Machine

/-- `cfg_valid(s)` (43_refresh_sequencer.md R322). -/
def cfgValid (s : State) : Bool :=
  decide (8 ≤ s.pw.toNat) && s.pw.toNat % 8 == 0
    && decide (1 ≤ s.nx.toNat) && decide (1 ≤ s.ny.toNat)
    && decide (1 ≤ s.nrows.toNat) && decide (s.nrows.toNat ≤ Config.nrowsMax)
    && decide (1 ≤ s.ph.toNat) && s.ph.toNat % s.nrows.toNat == 0
    && decide (frameBytes s ≤ Config.bufBytes)
    && (direct s || binary s)

/-- At a start whose `L` differs from the length the panel's registers have, both become `L` unspecified bits; a start with
the same `L` keeps them (45_backends.md R455, 93_implementation_defined.md U1). -/
def fitPanel (s : State) : State :=
  if s.panelSr.length = chainBits s ∧ s.panelLr.length = chainBits s then s
  else
    { s with
      panelSr := drawBits s.draws (chainBits s)
      panelLr := drawBits (s.draws + chainBits s) (chainBits s)
      draws := s.draws + chainBits s + chainBits s }

/-- What a start clears before the preload (43_refresh_sequencer.md R323). -/
def clearSequencer (s : State) : State :=
  { s with
    reloadPending := false, row := 0, nm := 0, phase := 0, busy := false, cnt := 0
    oeArmed := false, onCnt := 0, muxPend := none }

/-- The preload of row 0 of the front slot, with which the block runs (43_refresh_sequencer.md R323). -/
def preloadAndRun (s : State) : State := { shiftRow (fslot s) 0 s with run := true }

/-- An accepted start: the table, the timing, the cleared sequencer, every mux line to 0, the preload of row 0
(43_refresh_sequencer.md R323). -/
def acceptedStart (s : State) : State :=
  preloadAndRun (fitPanel (driveMux 0#32 (clearSequencer (loadTiming (generateMuxTable s)))))

/-- `start()`; with an invalid configuration it is refused whole (43_refresh_sequencer.md R323, R324). -/
def start (s : State) : State := if cfgValid s then acceptedStart s else raiseConfigError s

/-- `stop()` (43_refresh_sequencer.md R326). -/
def stop (s : State) : State :=
  let u := if s.oeArmed then emit .oeOff s else s
  let v :=
    { u with
      oeArmed := false, run := false, cnt := 0, shRem := 0, muxPend := none, reloadPending := false }
  if v.swapReq then exchange v else v

/-- `apply_reload()` (43_refresh_sequencer.md R331). -/
def applyReload (s : State) : State := { loadTiming s with reloadPending := false }

/-- The timer step is the tick: the count has reached the end of the row period (43_refresh_sequencer.md R330). -/
def tickDue (s : State) : Bool := !decide (s.cnt + 1 < s.period)

/-- TIMER step: one count, or the tick with a pending reload (43_refresh_sequencer.md R330). -/
def timerStep (s : State) : State :=
  if tickDue s then enterBurst (if s.reloadPending then applyReload s else s)
  else { s with cnt := s.cnt + 1 }

/-- The light-window length for the live brightness (43_refresh_sequencer.md R341). -/
def lightCounts (s : State) : Nat := s.period * s.bright.toNat / 255

/-- SEQ phase 0, "Select-row" (43_refresh_sequencer.md R340). -/
def seqPhase0 (s : State) : State :=
  let u := { emit .oeOff s with oeArmed := false, onCnt := lightCounts s }
  { applyMux u.nm u with phase := 1 }

/-- SEQ phase 1, "Shift/latch boundary" (43_refresh_sequencer.md R342). -/
def seqPhase1 (s : State) : State :=
  let u := emit .latch s
  { emit (.oeOn u.onCnt) { u with oeArmed := true } with phase := 2 }

/-- The burst is at the frame boundary: its row is the last of the frame (43_refresh_sequencer.md R345). -/
def atBoundary (s : State) : Bool := s.row == s.nrows.toNat - 1

/-- SEQ phase 2, "Buffer-swap check" (43_refresh_sequencer.md R344, 44_swap_arbiter.md R384). -/
def seqPhase2 (s : State) : State :=
  let u :=
    if atBoundary s then
      let v := { s with framecnt := s.framecnt + 1#32 }
      if v.swapReq then exchange v else v
    else s
  { u with phase := 3 }

/-- The row after the current one, modulo `nrows` (43_refresh_sequencer.md R348). -/
def nextRow (s : State) : Nat := (s.row + 1) % s.nrows.toNat

/-- SEQ phase 3, "Advance": the next row's shift starts and the burst ends (43_refresh_sequencer.md R348). -/
def seqPhase3 (s : State) : State :=
  let u := shiftRow (fslot s) (nextRow s * rowBytes s) s
  leaveBurst { u with nm := s.row + 1, row := nextRow s }

/-- SEQ step: the sub-phase the phase counter names (43_refresh_sequencer.md R350). -/
def seqStep (s : State) : State :=
  match s.phase with
  | 0 => seqPhase0 s
  | 1 => seqPhase1 s
  | 2 => seqPhase2 s
  | 3 => seqPhase3 s

end Sys2Proof.Machine
end

