-- ==== Sys2Proof/Machine/Agents.lean ====
section
/-! DEFINITION. The enabling conditions of the agents' steps (43_refresh_sequencer.md R321) and the turns of the schedule
(20_memory.md R120, 93_implementation_defined.md U2). -/

namespace Sys2Proof.Machine

/-- SEQ may execute its sub-phase: under PIO, phase 1 waits for the mux state machine and the shifter
(43_refresh_sequencer.md R321, R343). -/
def seqReady (s : State) : Bool :=
  if s.phase = 1 then
    match s.par.backend with
    | .reg => true
    | .pio => s.muxPend.isNone && s.shRem == 0
  else true

/-- The enabling table (43_refresh_sequencer.md R321). The HOST agent also needs a transaction to issue: without one the
host, which is outside the block, does nothing. -/
def enabled (a : Agent) (s : State) : Bool :=
  match a with
  | .host => !s.busy && !s.hostq.isEmpty
  | .timer => s.run && !s.busy
  | .seq => s.run && s.busy && seqReady s
  | .copy => s.copyBusy
  | .shift => s.par.backend == .pio && decide (0 < s.shRem)
  | .muxsm => s.par.backend == .pio && s.muxPend.isSome

/-- The next turn of the schedule and the state with it taken: the first turn laid down or, when none is, the agent the
oracle picks (93_implementation_defined.md U2). -/
def drawTurn (s : State) : Turn × State :=
  match s.turns with
  | t :: rest => (t, { s with turns := rest })
  | [] => (.agent (Config.pick s.turn), { s with turn := s.turn + 1 })

end Sys2Proof.Machine
end

