-- ==== Sys2Proof/Machine/BufferAccess.lean ====
section
/-! DEFINITION. The meanings of the buffer window transactions (42_buffer_access.md). The slot is resolved at the step
(R280). A misaligned halfword or word form, which no transaction encodes, is the bus error its rule names (R282, R283,
R285, R286, R288, R289). -/

namespace Sys2Proof.Machine

/-- The offset of the BACK window in the host window (20_memory.md R101). -/
def backBase : Nat := 0x1000

/-- The offset of the FRONT window in the host window (20_memory.md R101). -/
def frontBase : Nat := 0x2000

/-- A window read of `n` bytes at byte index `i`, refused unless aligned (20_memory.md R105, R107). -/
def windowRead (base n : Nat) (aligned : Bool) (i : BitVec 12) (s : State) : State :=
  if aligned then respond (memRead (base + i.toNat) n s) s else refuseTransaction false s

/-- A BACK window write of the low `n` bytes of `data` at byte index `i`, refused unless aligned (20_memory.md R106, R107). -/
def windowWrite (n : Nat) (aligned : Bool) (i : BitVec 12) (data : Word) (s : State) : State :=
  if aligned then acknowledge (memWrite (backBase + i.toNat) n data s) else refuseTransaction true s

/-- `RD8_BACK` (42_buffer_access.md R281). -/
def execRd8Back (i : BitVec 12) (s : State) : Host.Outcome State Fault Refusal := .next (windowRead backBase 1 true i s)

/-- `RD16_BACK` (R282). -/
def execRd16Back (i : BitVec 12) (s : State) : Host.Outcome State Fault Refusal :=
  .next (windowRead backBase 2 (halfAligned i) i s)

/-- `RD32_BACK` (R283). -/
def execRd32Back (i : BitVec 12) (s : State) : Host.Outcome State Fault Refusal :=
  .next (windowRead backBase 4 (wordAligned i) i s)

/-- `WR8_BACK` (R284). -/
def execWr8Back (i : BitVec 12) (data : Word) (s : State) : Host.Outcome State Fault Refusal :=
  .next (windowWrite 1 true i data s)

/-- `WR16_BACK` (R285). -/
def execWr16Back (i : BitVec 12) (data : Word) (s : State) : Host.Outcome State Fault Refusal :=
  .next (windowWrite 2 (halfAligned i) i data s)

/-- `WR32_BACK` (R286). -/
def execWr32Back (i : BitVec 12) (data : Word) (s : State) : Host.Outcome State Fault Refusal :=
  .next (windowWrite 4 (wordAligned i) i data s)

/-- `RD8_FRONT` (R287). -/
def execRd8Front (i : BitVec 12) (s : State) : Host.Outcome State Fault Refusal := .next (windowRead frontBase 1 true i s)

/-- `RD16_FRONT` (R288). -/
def execRd16Front (i : BitVec 12) (s : State) : Host.Outcome State Fault Refusal :=
  .next (windowRead frontBase 2 (halfAligned i) i s)

/-- `RD32_FRONT` (R289). -/
def execRd32Front (i : BitVec 12) (s : State) : Host.Outcome State Fault Refusal :=
  .next (windowRead frontBase 4 (wordAligned i) i s)

end Sys2Proof.Machine
end

