-- ==== Sys2Proof/Machine/Flags.lean ====
section
/-! DEFINITION. The status flags (10_state.md R63): the `STATUS` register as the host reads it and its write-1-to-clear
bits. The block has no arithmetic condition codes. -/

namespace Sys2Proof.Machine

/-- The `STATUS` register (40_host_registers.md R204). -/
def statusWord (s : State) : Word :=
  flagAt s.run 0 ||| flagAt s.swapReq 1 ||| flagAt s.copyBusy 2 ||| BitVec.ofNat 32 (fslot s).val <<< 3
    ||| BitVec.ofNat 32 s.phase.val <<< 4 ||| flagAt s.cfgerr 6 ||| flagAt s.berr 7
    ||| BitVec.ofNat 32 s.row <<< 8 ||| flagAt s.reloadPending 13

/-- A write of 1 to a sticky bit clears it, a write of 0 leaves it, and every other bit is ignored
(40_host_registers.md R205): `C = DATA[6]`, `B = DATA[7]`. -/
def clearSticky (data : Word) (s : State) : State :=
  { s with cfgerr := s.cfgerr && !data.getLsbD 6, berr := s.berr && !data.getLsbD 7 }

end Sys2Proof.Machine
end

