-- ==== Sys2Proof/Machine/Registers.lean ====
section
/-! DEFINITION. The meanings of the host register transactions (40_host_registers.md), in the opcode map's order. Each is
performed in one step and always completes: a refused one leaves its sticky bit (60_exceptions.md R470). -/

namespace Sys2Proof.Machine

/-- `RD_ID` (40_host_registers.md R201). -/
def execRdId (s : State) : Host.Outcome State Fault Refusal := .next (respond (idWord s) s)

/-- `RD_CTRL` (R202). -/
def execRdCtrl (s : State) : Host.Outcome State Fault Refusal := .next (respond (ctrlWord s) s)

/-- The double-buffer flag takes the value `db`; 0 forces the front index to 0 (R203, 10_state.md R35). -/
def setDoubleBuffer (db : Bool) (s : State) : State := { s with db := db, front := if db then s.front else 0 }

/-- A `CTRL` write from the point where the block is stopped: `DB`, then a start if `EN` is 1. `none`: the `DB` change raises
`BusError`, before any start (R203, 60_exceptions.md R475). -/
def controlStopped (en db : Bool) (s : State) : Option State :=
  if db != s.db then
    if s.copyBusy then none
    else some (if en then start (setDoubleBuffer db s) else setDoubleBuffer db s)
  else some (if en then start s else s)

/-- The effect of a `CTRL` write (R203): while running, `EN = 1` keeps it running and `EN = 0` stops it first. `none`: the
write raises `BusError`. -/
def controlEffect (en db : Bool) (s : State) : Option State :=
  if s.run then
    if en then
      if db != s.db then none else some s
    else controlStopped en db (stop s)
  else controlStopped en db s

/-- A `CTRL` write (R203). `raise BusError` makes the transaction have no other effect (00_scope.md R16): a write whose `DB`
change is refused after its stop does not stop the block either (DEDUCED, log entry 12). -/
def writeControl (en db : Bool) (s : State) : State := (controlEffect en db s).getD (raiseBusError s)

/-- `WR_CTRL` (R203). -/
def execWrCtrl (data : Word) (s : State) : Host.Outcome State Fault Refusal :=
  .next (acknowledge (writeControl (ctrlEn data) (ctrlDb data) s))

/-- `RD_STATUS` (R204). -/
def execRdStatus (s : State) : Host.Outcome State Fault Refusal := .next (respond (statusWord s) s)

/-- `WR_STATUS` (R205). -/
def execWrStatus (data : Word) (s : State) : Host.Outcome State Fault Refusal :=
  .next (acknowledge (clearSticky data s))

/-- `RD_BRIGHT` (R206). -/
def execRdBright (s : State) : Host.Outcome State Fault Refusal := .next (respond (s.bright.setWidth 32) s)

/-- `WR_BRIGHT` (R207). -/
def execWrBright (data : Word) (s : State) : Host.Outcome State Fault Refusal :=
  .next (acknowledge { s with bright := brightB data })

/-- `RD_SWAP`: a write-only register reads 0 (R208). -/
def execRdSwap (s : State) : Host.Outcome State Fault Refusal := .next (respond 0#32 s)

/-- `WR_SWAP` (R209, 44_swap_arbiter.md R382). -/
def execWrSwap (data : Word) (s : State) : Host.Outcome State Fault Refusal :=
  .next (acknowledge (requestSwap (swapReqBit data) (swapCopyBit data) s))

/-- `RD_SCAN_US` (R210). -/
def execRdScanUs (s : State) : Host.Outcome State Fault Refusal := .next (respond s.scanUs s)

/-- `WR_SCAN_US`: no value is refused; while running it asks for a reload at the next tick (R211). -/
def execWrScanUs (data : Word) (s : State) : Host.Outcome State Fault Refusal :=
  .next (acknowledge { s with scanUs := data, reloadPending := s.reloadPending || s.run })

/-- `RD_SCAN_ACH` (R212). -/
def execRdScanAch (s : State) : Host.Outcome State Fault Refusal := .next (respond s.achUs s)

/-- `RD_DIV` (R213). -/
def execRdDiv (s : State) : Host.Outcome State Fault Refusal := .next (respond (BitVec.ofNat 32 s.div) s)

/-- `RD_PERIOD` (R220). -/
def execRdPeriod (s : State) : Host.Outcome State Fault Refusal := .next (respond (BitVec.ofNat 32 s.period) s)

/-- `RD_ONCNT` (R221). -/
def execRdOncnt (s : State) : Host.Outcome State Fault Refusal := .next (respond (BitVec.ofNat 32 s.onCnt) s)

/-- `RD_TICKCNT` (R222). -/
def execRdTickcnt (s : State) : Host.Outcome State Fault Refusal := .next (respond s.tickcnt s)

/-- `RD_FRAMECNT` (R223). -/
def execRdFramecnt (s : State) : Host.Outcome State Fault Refusal := .next (respond s.framecnt s)

/-- `RD_GEOM0` (R214). -/
def execRdGeom0 (s : State) : Host.Outcome State Fault Refusal := .next (respond (geom0Word s) s)

/-- A configuration write: refused with a bus error while running, else `f` stores it (R215, R217, R219). -/
def configure (f : State → State) (s : State) : State := if s.run then raiseBusError s else f s

/-- `WR_GEOM0` (R215). -/
def execWrGeom0 (data : Word) (s : State) : Host.Outcome State Fault Refusal :=
  .next (acknowledge (configure (fun u =>
    { u with pw := geom0Pw data, ph := geom0Ph data, nx := geom0Nx data, ny := geom0Ny data }) s))

/-- `RD_GEOM1` (R216). -/
def execRdGeom1 (s : State) : Host.Outcome State Fault Refusal := .next (respond (geom1Word s) s)

/-- `WR_GEOM1` (R217). -/
def execWrGeom1 (data : Word) (s : State) : Host.Outcome State Fault Refusal :=
  .next (acknowledge (configure (fun u => { u with nrows := geom1Nrows data, muxcnt := geom1Muxcnt data }) s))

/-- `RD_POL` (R218). -/
def execRdPol (s : State) : Host.Outcome State Fault Refusal := .next (respond (polWord s) s)

/-- `WR_POL` (R219). -/
def execWrPol (data : Word) (s : State) : Host.Outcome State Fault Refusal :=
  .next (acknowledge (configure (fun u =>
    { u with selLvl := polSelLvl data, dataInv := polDataInv data, oeLow := polOeLow data }) s))

/-- `RD_MUXSET`, `idx` from 0 to 31 (R224). -/
def execRdMuxset (idx : BitVec 5) (s : State) : Host.Outcome State Fault Refusal :=
  .next (respond (muxEntry s.muxset idx.toNat) s)

/-- `RD_MUXSET32` (R225). -/
def execRdMuxset32 (s : State) : Host.Outcome State Fault Refusal := .next (respond (muxEntry s.muxset 32) s)

/-- `RD_MUXCLR`, `idx` from 0 to 31 (R226). -/
def execRdMuxclr (idx : BitVec 5) (s : State) : Host.Outcome State Fault Refusal :=
  .next (respond (muxEntry s.muxclr idx.toNat) s)

/-- `RD_MUXCLR32` (R227). -/
def execRdMuxclr32 (s : State) : Host.Outcome State Fault Refusal := .next (respond (muxEntry s.muxclr 32) s)

end Sys2Proof.Machine
end

