-- ==== Sys2Proof/Machine/Dispatch.lean ====
section
/-! DEFINITION. One arm for each row of the opcode map: the meaning of each host transaction. -/

namespace Sys2Proof.Machine

def exec (i : Instr) (s : State) : Host.Outcome State Fault Refusal :=
  match i with
  | .rdId => Sys2Proof.Machine.execRdId s
  | .rdCtrl => Sys2Proof.Machine.execRdCtrl s
  | .wrCtrl data => Sys2Proof.Machine.execWrCtrl data s
  | .rdStatus => Sys2Proof.Machine.execRdStatus s
  | .wrStatus data => Sys2Proof.Machine.execWrStatus data s
  | .rdBright => Sys2Proof.Machine.execRdBright s
  | .wrBright data => Sys2Proof.Machine.execWrBright data s
  | .rdSwap => Sys2Proof.Machine.execRdSwap s
  | .wrSwap data => Sys2Proof.Machine.execWrSwap data s
  | .rdScanUs => Sys2Proof.Machine.execRdScanUs s
  | .wrScanUs data => Sys2Proof.Machine.execWrScanUs data s
  | .rdScanAch => Sys2Proof.Machine.execRdScanAch s
  | .rdDiv => Sys2Proof.Machine.execRdDiv s
  | .rdPeriod => Sys2Proof.Machine.execRdPeriod s
  | .rdOncnt => Sys2Proof.Machine.execRdOncnt s
  | .rdTickcnt => Sys2Proof.Machine.execRdTickcnt s
  | .rdFramecnt => Sys2Proof.Machine.execRdFramecnt s
  | .rdGeom0 => Sys2Proof.Machine.execRdGeom0 s
  | .wrGeom0 data => Sys2Proof.Machine.execWrGeom0 data s
  | .rdGeom1 => Sys2Proof.Machine.execRdGeom1 s
  | .wrGeom1 data => Sys2Proof.Machine.execWrGeom1 data s
  | .rdPol => Sys2Proof.Machine.execRdPol s
  | .wrPol data => Sys2Proof.Machine.execWrPol data s
  | .rdMuxset idx => Sys2Proof.Machine.execRdMuxset idx s
  | .rdMuxset32 => Sys2Proof.Machine.execRdMuxset32 s
  | .rdMuxclr idx => Sys2Proof.Machine.execRdMuxclr idx s
  | .rdMuxclr32 => Sys2Proof.Machine.execRdMuxclr32 s
  | .rd8Back k => Sys2Proof.Machine.execRd8Back k s
  | .rd16Back k => Sys2Proof.Machine.execRd16Back k s
  | .rd32Back k => Sys2Proof.Machine.execRd32Back k s
  | .wr8Back k data => Sys2Proof.Machine.execWr8Back k data s
  | .wr16Back k data => Sys2Proof.Machine.execWr16Back k data s
  | .wr32Back k data => Sys2Proof.Machine.execWr32Back k data s
  | .rd8Front k => Sys2Proof.Machine.execRd8Front k s
  | .rd16Front k => Sys2Proof.Machine.execRd16Front k s
  | .rd32Front k => Sys2Proof.Machine.execRd32Front k s

end Sys2Proof.Machine
end

