-- ==== Sys2Proof/Machine/HostStep.lean ====
section
/-! DEFINITION. The HOST agent's step, what an agent's turn does, and how a transaction is laid where the next step fetches
it. -/

namespace Sys2Proof.Machine

/-- HOST step: the next transaction in program order is decoded and performed, or is a bus error (30_encoding.md R154, R160,
20_memory.md R122). -/
def hostStep (s : State) : Host.Outcome State Fault Refusal :=
  match s.hostq with
  | [] => .next s
  | t :: rest =>
    match decode t with
    | .ok i => exec i { s with hostq := rest }
    | .error _ => .next (refuseTransaction (isWrite t) { s with hostq := rest })

/-- The step of an agent that is enabled (00_scope.md R17, 43_refresh_sequencer.md R321). -/
def agentStep (a : Agent) (s : State) : Host.Outcome State Fault Refusal :=
  match a with
  | .host => hostStep s
  | .timer => .next (timerStep s)
  | .seq => .next (seqStep s)
  | .copy => .next (copyStep s)
  | .shift => .next (shiftStep s)
  | .muxsm => .next (muxsmStep s)

/-- One turn: the agent's step if it is enabled, else it holds (00_scope.md R16, R17), or the reset input
(70_reset_and_hazards.md R530). -/
def takeTurn (t : Turn) (s : State) : Host.Outcome State Fault Refusal :=
  match t with
  | .agent a => if enabled a s then agentStep a s else .next s
  | .reset => .next (resetInput s)

/-- The state after one turn: every turn ends in a next state. -/
def afterTurn (t : Turn) (s : State) : State :=
  match takeTurn t s with
  | .next u => u
  | .fault _ => s
  | .refused _ => s

/-- The state after the turns of a list, in order. -/
def afterTurns (ts : List Turn) (s : State) : State := ts.foldl (fun u t => afterTurn t u) s

/-- The turn the schedule gives next, taken. -/
def stepTurn (s : State) : Host.Outcome State Fault Refusal := takeTurn (drawTurn s).1 (drawTurn s).2

/-- `s` with transaction `t` first in the host's queue, the next turn the host's, and no burst holding it. -/
def stageTransaction (t : Transaction) (s : State) : State :=
  { s with hostq := t :: s.hostq, turns := .agent .host :: s.turns, busy := false }

end Sys2Proof.Machine
end

