-- ==== Sys2Proof/Machine/Step.lean ====
section
/-! DEFINITION. One step of the machine: one turn of the schedule (20_memory.md R120). -/

namespace Sys2Proof.Machine

/-- One step: the agent whose turn it is makes its atomic step, or holds (20_memory.md R108, R120). -/
def step (s : State) : Host.Outcome State Fault Refusal := stepTurn s

/-- The transaction whose bits are `w`, laid where the next step fetches it: first in the host's queue, with the next turn
the host's and no burst holding it (30_encoding.md R161). The bus has 50 lines: a bit of `w` above bit 49 is on none. -/
def State.withFetchWord (s : State) (nbits w : Nat) : State :=
  stageTransaction (BitVec.ofNat 50 (w % 2 ^ nbits)) s

end Sys2Proof.Machine
end

