-- ==== Sys2Proof/Machine/Panel.lean ====
section
/-! DEFINITION. What is seen of the machine: the OE output (10_state.md R60), the displayed image (45_backends.md R453) and
the reference pixel mapping (42_buffer_access.md R300 to R303). -/

namespace Sys2Proof.Machine

/-- `oe_active(s)` (10_state.md R60). -/
def oeActive (s : State) : Bool := s.run && !s.busy && s.oeArmed && decide (s.cnt < s.onCnt)

/-- `oe_pin(s)` (10_state.md R60). -/
def oePin (s : State) : Bool := oeActive s ^^ s.oeLow

/-- A pixel's place in a slot: the byte and the bit in it. -/
structure BitPos where
  byte : Nat
  bit : Nat
  deriving DecidableEq, Repr

/-- `pix_addr_panel(p, x, y)`: column `x`, line `y` of panel `p` (42_buffer_access.md R300). DESIGN CHOICE (log entry 22):
with `NROWS = 0`, for which R12 and R13 give no quotient and no remainder, `a / 0` is 0 and `a mod 0` is `a`. -/
def pixAddrPanel (s : State) (p x y : Nat) : BitPos :=
  { byte := y % s.nrows.toNat * rowBytes s
      + (p * groupLines s + y / s.nrows.toNat) * (s.pw.toNat / 8) + x / 8
    bit := 7 - x % 8 }

/-- `pix_addr(X, Y)` for rotation 0 and the normal connect scheme (42_buffer_access.md R301). -/
def pixAddr (s : State) (x y : Nat) : BitPos :=
  pixAddrPanel s (y / s.ph.toNat * s.nx.toNat + x / s.pw.toNat) (x % s.pw.toNat) (y % s.ph.toNat)

/-- The display pixel exists (42_buffer_access.md R301, R302). -/
def onDisplay (s : State) (x y : Nat) : Bool :=
  decide (x < s.nx.toNat * s.pw.toNat) && decide (y < s.ny.toNat * s.ph.toNat)

/-- The place in the panel chain of column `x`, line `y` of panel `p` (42_buffer_access.md R300, 45_backends.md R453). -/
def chainPos (s : State) (p x y : Nat) : Nat := (p * groupLines s + y / s.nrows.toNat) * s.pw.toNat + x

/-- `lit(s, p, x, y)`: the displayed image (45_backends.md R453). DESIGN CHOICE (log entry 9): a place past the end of the
latch register, which no pixel of a running configuration has, is dark. -/
def lit (s : State) (p x y : Nat) : Bool :=
  oeActive s && selrow s s.muxLvl == some (y % s.nrows.toNat)
    && (s.panelLr.getD (chainPos s p x y) s.dataInv ^^ s.dataInv)

end Sys2Proof.Machine
end

