-- ==== Sys2Proof/Machine/Script.lean ====
section
/-! DEFINITION. Host scripts (30_encoding.md R170 to R173): the assembler syntax as data, the pseudo-instructions and their
expansions, and the run of a script. The host's control flow and the schedule lines issue no transaction. -/

namespace Sys2Proof.Machine

/-! ### Transaction lines -/

/-- The access width a script mnemonic fixes (30_encoding.md R170). -/
inductive Width where
  | w8
  | w16
  | w32
  deriving DecidableEq, Repr

/-- The size code `SZ` of a width (30_encoding.md R150). -/
def widthCode : Width → BitVec 2
  | .w8 => 0#2
  | .w16 => 1#2
  | .w32 => 2#2

/-- The register names of a script (40_host_registers.md R200). -/
inductive RegName where
  | ID | CTRL | STATUS | BRIGHT | SWAP | SCAN_US | SCAN_ACH | DIV | PERIOD | ONCNT | TICKCNT | FRAMECNT | GEOM0 | GEOM1 | POL
  deriving DecidableEq, Repr

/-- The window offset of a register (40_host_registers.md R200). -/
def regOffset : RegName → Nat
  | .ID => 0x000
  | .CTRL => 0x004
  | .STATUS => 0x008
  | .BRIGHT => 0x00C
  | .SWAP => 0x010
  | .SCAN_US => 0x014
  | .SCAN_ACH => 0x018
  | .DIV => 0x01C
  | .PERIOD => 0x020
  | .ONCNT => 0x024
  | .TICKCNT => 0x028
  | .FRAMECNT => 0x02C
  | .GEOM0 => 0x030
  | .GEOM1 => 0x034
  | .POL => 0x038

/-- The `<loc>` of a transaction line (30_encoding.md R170). -/
inductive Loc where
  | reg (r : RegName)
  | muxset (idx : Nat)
  | muxclr (idx : Nat)
  | back (offset : Nat)
  | front (offset : Nat)
  | raw (offset : Nat)
  deriving DecidableEq, Repr

/-- The `OFF` field a location fixes (30_encoding.md R170). DESIGN CHOICE (log entry 20): the offset is that of the window
as a whole, so an operand past its own window names what lies there, and one that does not fit the 15 bits of `OFF` is
reduced modulo 2^15. -/
def locOffset : Loc → BitVec 15
  | .reg r => BitVec.ofNat 15 (regOffset r)
  | .muxset idx => BitVec.ofNat 15 (0x100 + 4 * idx)
  | .muxclr idx => BitVec.ofNat 15 (0x200 + 4 * idx)
  | .back o => BitVec.ofNat 15 (0x1000 + o)
  | .front o => BitVec.ofNat 15 (0x2000 + o)
  | .raw o => BitVec.ofNat 15 o

/-- Expressions over the responses a script has bound (30_encoding.md R170). -/
inductive HostExpr where
  | num (v : Word)
  | var (x : String)
  | and (a b : HostExpr)
  | or (a b : HostExpr)
  | eq (a b : HostExpr)
  | ne (a b : HostExpr)
  deriving DecidableEq, Repr

/-- The responses bound so far, the latest first. -/
abbrev Bindings := List (String × Word)

/-- The value of an expression; a comparison gives 1 or 0, a name nothing has bound 0. -/
def evalHostExpr (env : Bindings) : HostExpr → Word
  | .num v => v
  | .var x => (env.lookup x).getD 0#32
  | .and a b => evalHostExpr env a &&& evalHostExpr env b
  | .or a b => evalHostExpr env a ||| evalHostExpr env b
  | .eq a b => if evalHostExpr env a = evalHostExpr env b then 1#32 else 0#32
  | .ne a b => if evalHostExpr env a ≠ evalHostExpr env b then 1#32 else 0#32

/-- A script line (30_encoding.md R170). -/
inductive Line where
  /-- `rd8|rd16|rd32 <loc>`, its response bound to a name or not. -/
  | rd (w : Width) (loc : Loc) (bind : Option String)
  /-- `wr8|wr16|wr32 <loc>, <value>`. -/
  | wr (w : Width) (loc : Loc) (value : HostExpr)
  /-- `name:` -/
  | label (name : String)
  /-- `if <expr> goto <label>`. -/
  | ifGoto (cond : HostExpr) (target : String)
  /-- `; comment` -/
  | comment (text : String)
  /-- `run <n> ticks`. -/
  | runTicks (n : Nat)
  /-- `settle`. -/
  | settle
  deriving DecidableEq, Repr

/-- The transaction of a line, if it issues one (30_encoding.md R170). -/
def lineTransaction (env : Bindings) : Line → Option Transaction
  | .rd w loc _ => some (assemble (widthCode w) false (locOffset loc) 0#32)
  | .wr w loc v => some (assemble (widthCode w) true (locOffset loc) (evalHostExpr env v))
  | .label _ => none
  | .ifGoto _ _ => none
  | .comment _ => none
  | .runTicks _ => none
  | .settle => none

/-! ### Pseudo-instructions -/

/-- The pseudo-instructions of 30_encoding.md R171 and R172. `swap`, `swapcopy` and `waitswap` take the name of their loop's
label. -/
inductive Pseudo where
  | start
  | start1
  | stop
  | setbright (b : Word)
  | setscan (us : Word)
  | swap (loop : String)
  | swapcopy (loop : String)
  | clrerr
  | waitswap (loop : String)
  deriving DecidableEq, Repr

/-- `waitswap`: poll `STATUS` while SWAP_PEND or COPY_BUSY is set (30_encoding.md R172). -/
def waitswapLines (loop : String) : List Line :=
  [.label loop, .rd .w32 (.reg .STATUS) (some "t"), .ifGoto (.ne (.and (.var "t") (.num 0x6#32)) (.num 0#32)) loop]

/-- The expansion of a pseudo-instruction (30_encoding.md R171, R172). -/
def expandPseudo : Pseudo → List Line
  | .start => [.wr .w32 (.reg .CTRL) (.num 0x3#32)]
  | .start1 => [.wr .w32 (.reg .CTRL) (.num 0x1#32)]
  | .stop => [.wr .w32 (.reg .CTRL) (.num 0x2#32)]
  | .setbright b => [.wr .w32 (.reg .BRIGHT) (.num b)]
  | .setscan us => [.wr .w32 (.reg .SCAN_US) (.num us)]
  | .swap loop => .wr .w32 (.reg .SWAP) (.num 0x1#32) :: waitswapLines loop
  | .swapcopy loop => .wr .w32 (.reg .SWAP) (.num 0x3#32) :: waitswapLines loop
  | .clrerr => [.wr .w32 (.reg .STATUS) (.num 0xC0#32)]
  | .waitswap loop => waitswapLines loop

/-- `setpix x, y, c`: nothing when `(x, y)` is out of range, else a read-modify-write of one BACK byte
(30_encoding.md R173, 42_buffer_access.md R302). The geometry is that of `s`. -/
def setpixLines (s : State) (x y : Nat) (c : Bool) : List Line :=
  if onDisplay s x y then
    [.rd .w8 (.back (pixAddr s x y).byte) (some "t"),
     .wr .w8 (.back (pixAddr s x y).byte)
       (if c then .or (.var "t") (.num (1#32 <<< (pixAddr s x y).bit))
        else .and (.var "t") (.num (~~~(1#32 <<< (pixAddr s x y).bit))))]
  else []

/-- `clear_screen(normal)`: the fill of the frame's bytes with 0x00, or with 0xFF when not `normal`
(42_buffer_access.md R304). DESIGN CHOICE (log entry 20): one byte write for each byte, in rising order. -/
def clearScreenLines (s : State) (normal : Bool) : List Line :=
  (List.range (frameBytes s)).map fun i => .wr .w8 (.back i) (.num (if normal then 0x00#32 else 0xFF#32))

/-! ### The run of a script -/

/-- The turns of one tick and its burst: the counts left of the row period, phase 0, what phase 1 waits for, and the
phases 1 to 3 (43_refresh_sequencer.md R320, R343). -/
def tickTurns (s : State) : List Turn :=
  List.replicate (max 1 (s.period - s.cnt)) (.agent .timer)
    ++ [.agent .seq, .agent .muxsm] ++ List.replicate s.shRem (.agent .shift)
    ++ [.agent .seq, .agent .seq, .agent .seq]

/-- `run <n> ticks`: `n` more bursts (30_encoding.md R170). DESIGN CHOICE (log entry 20): the schedule, and that it changes
nothing but what SHIFT and MUXSM have left to do when the block is stopped. -/
def runTicks : Nat → State → State
  | 0, s => s
  | n + 1, s => runTicks n (afterTurns (tickTurns s) s)

/-- The turns after which none of SHIFT, MUXSM and COPY is enabled. -/
def settleTurns (s : State) : List Turn :=
  List.replicate s.shRem (.agent .shift) ++ [.agent .muxsm]
    ++ List.replicate (Config.bufBytes - s.copyIdx) (.agent .copy)

/-- `settle` (30_encoding.md R170). -/
def settle (s : State) : State := afterTurns (settleTurns s) s

/-- One transaction of the host, issued and performed before any other turn. -/
def issue (t : Transaction) (s : State) : State :=
  afterTurn (.agent .host) { s with hostq := t :: s.hostq }

/-- A script in progress: the lines still to run, the responses bound and the block. -/
structure ScriptRun where
  rest : List Line
  env : Bindings
  block : State
  deriving DecidableEq, Repr

/-- The lines from a label on. DESIGN CHOICE (log entry 20): of a label that stands twice, the first; none when it does not
stand at all. -/
def fromLabel (prog : List Line) (name : String) : List Line :=
  prog.dropWhile fun l => l != .label name

/-- One line of the script `prog`, run. DESIGN CHOICE (log entry 20): `if` jumps exactly when its expression, a comparison
or not, has a value other than 0. -/
def runLine (prog : List Line) (r : ScriptRun) : ScriptRun :=
  match r.rest with
  | [] => r
  | .rd w loc bind :: rest =>
    let u := issue (assemble (widthCode w) false (locOffset loc) 0#32) r.block
    { rest := rest
      env := match bind, u.rdata with
        | some x, some v => (x, v) :: r.env
        | _, _ => r.env
      block := u }
  | .wr w loc v :: rest =>
    { r with
      rest := rest
      block := issue (assemble (widthCode w) true (locOffset loc) (evalHostExpr r.env v)) r.block }
  | .label _ :: rest => { r with rest := rest }
  | .ifGoto c target :: rest =>
    { r with rest := if evalHostExpr r.env c ≠ 0#32 then fromLabel prog target else rest }
  | .comment _ :: rest => { r with rest := rest }
  | .runTicks n :: rest => { r with rest := rest, block := runTicks n r.block }
  | .settle :: rest => { r with rest := rest, block := settle r.block }

/-- At most `fuel` lines of a script. -/
def runScript (prog : List Line) : Nat → ScriptRun → ScriptRun
  | 0, r => r
  | n + 1, r => if r.rest.isEmpty then r else runScript prog n (runLine prog r)

end Sys2Proof.Machine
end

