-- ==== Sys2Proof/Safety.lean ====
section
/-! DEFINITION. The terms claims use: the invariants of a reachable state, a run under a schedule, weak fairness, and what a
step leaves unchanged. -/

namespace Sys2Proof.Machine

/-! ### Invariants -/

/-- The invariants 10_state.md R78 gives for every reachable state, clause by clause. -/
structure SpecInvariant (s : State) : Prop where
  /-- R78(a). -/
  phaseAtRest : s.busy = false → s.phase = 0
  /-- R78(b). -/
  running : s.run = true →
    cfgValid s = true ∧ s.row < s.nrows.toNat ∧ s.nm ≤ s.nrows.toNat ∧ (s.busy = false → s.nm % s.nrows.toNat = s.row)
  /-- R78(c). -/
  stopped : s.run = false →
    s.busy = false ∧ s.swapReq = false ∧ s.cnt = 0 ∧ s.oeArmed = false ∧ s.shRem = 0 ∧ s.muxPend = none
  /-- R78(d). -/
  swapPending : s.swapReq = true → s.db = true ∧ s.run = true ∧ s.copyBusy = false
  /-- R78(e). -/
  copying : s.copyBusy = true → s.db = true ∧ s.swapReq = false
  /-- R78(f). -/
  sentinel : s.run = true →
    muxEntry s.muxset s.nrows.toNat = muxEntry s.muxset 0 ∧ muxEntry s.muxclr s.nrows.toNat = muxEntry s.muxclr 0

/-- The ranges 10_state.md gives the components that are held as natural numbers or lists, and the canonical form of the
buffer store. -/
structure InRange (s : State) : Prop where
  /-- R38. -/
  div : s.div ≤ s.par.divMax
  /-- R38. -/
  period : s.period ≤ 2 ^ s.par.timerWidth
  /-- R38: after any start both are at least 1. -/
  started : s.run = true → 1 ≤ s.div ∧ 1 ≤ s.period
  /-- R46. -/
  onCnt : s.onCnt ≤ 2 ^ s.par.timerWidth
  /-- R47. -/
  row : s.row < Config.nrowsMax
  /-- R50. -/
  nm : s.nm ≤ Config.nrowsMax
  /-- R51: while running the count stays below the period. -/
  counting : s.run = true → s.cnt < s.period
  /-- R56. -/
  copyIdx : s.copyIdx ≤ Config.bufBytes
  /-- R56, R388: a copy in progress has a byte left. -/
  copyLeft : s.copyBusy = true → s.copyIdx < Config.bufBytes
  /-- R57, 45_backends.md R435: the bytes left to shift lie in the slot. -/
  shift : s.shSrc + s.shRem ≤ Config.bufBytes
  /-- R58. -/
  muxPend : ∀ i, s.muxPend = some i → i < Config.nrowsMax
  /-- R57, R58: under REG the PIO components stay at their reset values. -/
  regIdle : s.par.backend = .reg → s.shRem = 0 ∧ s.shSrc = 0 ∧ s.shSlot = 0 ∧ s.muxPend = none
  /-- R59: the pulses end inside a step. -/
  pulses : s.clkLvl = false ∧ s.latLvl = false
  /-- R53: the store is in its canonical form. -/
  store : Memory.wf s.store = true

/-- While running, the mux table is the generator's, the unused mux lines are 0, the panel has the chain's length, and the
PIO agents are where the sequencer's rules leave them. -/
structure Coherent (s : State) : Prop where
  /-- 41_mux_table.md R250: the table is the one the last start generated. -/
  table : s.run = true → ∀ i, i ≤ 32 →
    muxEntry s.muxset i = (tableEntry s i).1 ∧ muxEntry s.muxclr i = (tableEntry s i).2
  /-- R59, 41_mux_table.md R255. -/
  unusedLines : s.run = true → s.muxLvl &&& ~~~(lineMask s) = 0#32
  /-- R76. -/
  panel : s.run = true → s.panelSr.length = chainBits s ∧ s.panelLr.length = chainBits s
  /-- R50 during a burst: up to phase 3 the lookahead index still names the row of the burst. -/
  lookahead : s.run = true → s.nm % s.nrows.toNat = s.row
  /-- 43_refresh_sequencer.md R340, R343: a row index waits for the mux state machine only in phase 1, and it is the row of
  the burst. -/
  pending : ∀ i, s.muxPend = some i → s.busy = true ∧ s.phase = 1 ∧ i = s.row
  /-- 43_refresh_sequencer.md R343: past phase 1 the row shift of the previous burst is complete. -/
  shifted : s.busy = true → 2 ≤ s.phase.val → s.shRem = 0
  /-- 44_swap_arbiter.md R390: the shifter reads the front slot. -/
  slot : 0 < s.shRem → s.shSlot = fslot s
  /-- 45_backends.md R435: the bytes left to shift lie in the frame. -/
  transfer : 0 < s.shRem → s.shSrc + s.shRem ≤ frameBytes s
  /-- 10_state.md R52: the window is open between bursts only once a burst has opened it, and never in phase 1. -/
  dark : s.busy = true → s.phase = 1 → s.oeArmed = false

/-- All of them: what every state reached from reset has. -/
structure Invariant (s : State) : Prop where
  spec : SpecInvariant s
  range : InRange s
  coherent : Coherent s

/-- Whenever the mux lines carry a row's levels for the panel, they select that row: in a burst from the end of the mux drive
on it is the burst's row, and between bursts with the window open the row before `s.row` (45_backends.md R442, R454). -/
structure SelectsRow (s : State) : Prop where
  inBurst : s.run = true → s.busy = true → 1 ≤ s.phase.val → s.muxPend = none → selrow s s.muxLvl = some s.row
  between : s.run = true → s.busy = false → s.oeArmed = true →
    selrow s s.muxLvl = some ((s.row + s.nrows.toNat - 1) % s.nrows.toNat)

/-! ### Runs and fairness -/

/-- The `n`-th state of the run from `s` in which turn `n` is `sched n` (20_memory.md R120). -/
def runOf (sched : Nat → Turn) (s : State) : Nat → State
  | 0 => s
  | n + 1 => afterTurn (sched n) (runOf sched s n)

/-- Weak fairness: an agent whose step stays enabled eventually takes it (20_memory.md R120). -/
def WeaklyFair (sched : Nat → Turn) (s : State) : Prop :=
  ∀ a n, (∀ m, n ≤ m → enabled a (runOf sched s m) = true) → ∃ m, n ≤ m ∧ sched m = .agent a

/-- The platform gives no reset. -/
def NoReset (sched : Nat → Turn) : Prop := ∀ n, sched n ≠ .reset

/-! ### Frames -/

/-- Every byte of the two slots reads the same. -/
def SameBytes (s t : State) : Prop := ∀ k i, bufRead k i t = bufRead k i s

/-- The configuration registers are unchanged: geometry, polarity and the double-buffer flag (00_scope.md R11). -/
def SameConfig (s t : State) : Prop :=
  t.pw = s.pw ∧ t.ph = s.ph ∧ t.nx = s.nx ∧ t.ny = s.ny ∧ t.nrows = s.nrows ∧ t.muxcnt = s.muxcnt
    ∧ t.selLvl = s.selLvl ∧ t.dataInv = s.dataInv ∧ t.oeLow = s.oeLow ∧ t.db = s.db

/-- The mux mask table is unchanged. -/
def SameTable (s t : State) : Prop := t.muxset = s.muxset ∧ t.muxclr = s.muxclr

/-- `t` is `s` but for buffer bytes that are never scanned, those at and above `SIZE`, and the last response
(93_implementation_defined.md U14). -/
def AgreeOnFrame (s t : State) : Prop :=
  t = { s with store := t.store, rdata := t.rdata } ∧ ∀ k i, i < frameBytes s → bufRead k i t = bufRead k i s

/-- The HOST's turn performs the transaction `i` in `s`: it is the one next in the host's queue. -/
def HostPerforms (τ : Turn) (s : State) (i : Instr) : Prop :=
  τ = .agent .host ∧ s.busy = false ∧ ∃ w q, s.hostq = w :: q ∧ decode w = .ok i

end Sys2Proof.Machine
end

