-- ==== Sys2Proof/Certificates/Slice0/Obligations.lean ====
section
/-! DEFINITION. The statements for the provers: what the spec's rules say the host's transactions, the agents and the whole
machine do. Each docstring names the rules; OBLIGATIONS.json lists them. -/

section
open Sys2Proof Sys2Proof.Machine

/-! ### Encoding -/

/-- R150, R151, R154: decoding the transaction of a well-formed instruction gives it back, whatever its operands. -/
def Obligations.DecodeOfEncode : Prop :=
  ∀ i : Instr, i.wellFormed = true → decode (encode i) = .ok i

/-- R154: a transaction that decodes matches exactly one row of the opcode map, the row of its instruction; one that is
rejected matches none. -/
def Obligations.DecodeFollowsOpcodeMap : Prop :=
  ∀ t : Transaction,
    match decode t with
    | .ok i => (opcodeMap.filter fun x => x.hits t).map (fun x => x.mnemonic) = [i.mnemonic] ∧ i.wellFormed = true
    | .error _ => opcodeMap.filter (fun x => x.hits t) = []

/-- R150: nothing of a transaction is lost by decoding it but the `DATA` bits of a read, which a read ignores. That the
encoder sets those bits to 0 is the model's (log entry 16). -/
def Obligations.EncodeOfDecode : Prop :=
  ∀ (t : Transaction) (i : Instr), decode t = .ok i →
    encode i = if isWrite t then t else t &&& 0x3FFFF00000000#50

/-- R152 and words written out from R150: known transactions decode to the instructions they stand for. -/
def Obligations.KnownTransactionsDecode : Prop :=
  assemble 2#2 true 0x0004#15 0x3#32 = 0x2800400000003#50
    ∧ decode 0x2800400000003#50 = .ok (.wrCtrl 3#32)
    ∧ decode 0x2017C00000000#50 = .ok (.rdMuxset 31#5)
    ∧ decode 0x2028000000000#50 = .ok .rdMuxclr32
    ∧ decode 0x190020000ABCD#50 = .ok (.wr16Back 2#12 0xABCD#32)
    ∧ decode 0x22FFC00000000#50 = .ok (.rd32Front 0xFFC#12)
    ∧ decode 0x3900000000000#50 = .error .reservedSize
    ∧ decode 0x0A00000000001#50 = .error .frontWindowWrite

/-! ### The step -/

/-- R120: a step takes the turn the schedule lays down next or, when none is laid down, the turn the oracle picks. It
always ends in a next state: nothing stops the block (R351, R470, R474). The schedule's form is the model's (log entry
3). -/
def Obligations.StepTakesScheduledTurn : Prop :=
  ∀ s : State,
    (∀ τ rest, s.turns = τ :: rest → step s = takeTurn τ { s with turns := rest })
      ∧ (s.turns = [] → step s = takeTurn (.agent (Config.pick s.turn)) { s with turn := s.turn + 1 })
      ∧ ∃ t, step s = .next t

/-- R154, R161: between bursts, the host's turn performs the next transaction of its program, decoded; and a word laid
where the step fetches is performed by the very next step. The queue and the schedule are the model's (log entries 3 and
5). -/
def Obligations.StepRunsDecodedTransaction : Prop :=
  (∀ (s : State) (rest : List Turn) (w : Transaction) (q : List Transaction) (i : Instr),
      s.turns = .agent .host :: rest → s.busy = false → s.hostq = w :: q → decode w = .ok i →
      step s = exec i { s with turns := rest, hostq := q })
    ∧ ∀ (s : State) (nbits w : Nat) (i : Instr), decodeTableWord nbits w = some i →
        step (s.withFetchWord nbits w) = exec i { s with busy := false }

/-- R160, R471: a transaction that matches no row changes nothing but `BERR`; a read returns 0 and a write nothing. That
a write leaves the response `none` is the model's (log entry 6). -/
def Obligations.IllegalTransactionSetsOnlyBerr : Prop :=
  ∀ (s : State) (w : Transaction) (q : List Transaction) (e : DecodeError),
    s.busy = false → s.hostq = w :: q → decode w = .error e →
    takeTurn (.agent .host) s
      = .next { s with hostq := q, berr := true, rdata := if isWrite w then none else some 0#32 }

/-- R16, R321: in each state exactly the agents of the enabling table are enabled, and the turn of an agent that is not
changes nothing. That the host's turn also needs a transaction to issue, and that the turn of an agent that is not
enabled is taken and changes nothing, is the model's (log entries 3 and 5). -/
def Obligations.DisabledAgentHolds : Prop :=
  ∀ s : State,
    (enabled .timer s = true ↔ s.run = true ∧ s.busy = false)
      ∧ (enabled .seq s = true ↔ s.run = true ∧ s.busy = true
          ∧ (s.phase = 1 → s.par.backend = .pio → s.muxPend = none ∧ s.shRem = 0))
      ∧ (enabled .copy s = true ↔ s.copyBusy = true)
      ∧ (enabled .shift s = true ↔ s.par.backend = .pio ∧ 0 < s.shRem)
      ∧ (enabled .muxsm s = true ↔ s.par.backend = .pio ∧ s.muxPend ≠ none)
      ∧ (enabled .host s = true ↔ s.busy = false ∧ s.hostq ≠ [])
      ∧ ∀ a, enabled a s = false → takeTurn (.agent a) s = .next s

/-! ### Register reads -/

/-- R201, R202, R204: `RD_ID`, `RD_CTRL` and `RD_STATUS` answer the fields at their bit positions and change nothing
else. `STATUS.ROW` has five bits, so the row is below 32, as every reachable state's is (R47). -/
def Obligations.IdentityControlStatusReads : Prop :=
  ∀ s : State,
    (∃ w : Word, exec .rdId s = .next { s with rdata := some w }
        ∧ w.getLsbD 0 = (s.par.backend == .pio) ∧ w.extractLsb' 1 7 = 0#7
        ∧ w.extractLsb' 8 8 = BitVec.ofNat 8 s.par.timerWidth ∧ w.extractLsb' 16 8 = 32#8 ∧ w.extractLsb' 24 8 = 0#8)
      ∧ (∃ w : Word, exec .rdCtrl s = .next { s with rdata := some w }
        ∧ w.getLsbD 0 = s.run ∧ w.getLsbD 1 = s.db ∧ w.extractLsb' 2 30 = 0#30)
      ∧ (s.row < 32 → ∃ w : Word, exec .rdStatus s = .next { s with rdata := some w }
        ∧ w.getLsbD 0 = s.run ∧ w.getLsbD 1 = s.swapReq ∧ w.getLsbD 2 = s.copyBusy
        ∧ (w.extractLsb' 3 1).toNat = (fslot s).val ∧ (w.extractLsb' 4 2).toNat = s.phase.val
        ∧ w.getLsbD 6 = s.cfgerr ∧ w.getLsbD 7 = s.berr ∧ (w.extractLsb' 8 5).toNat = s.row
        ∧ w.getLsbD 13 = s.reloadPending ∧ w.extractLsb' 14 18 = 0#18)

/-- R210, R212, R213, R220 to R223: the timing and counter registers answer the state's values and change nothing else.
`DIV`, `PERIOD` and `ONCNT` are held as natural numbers below 2^32. -/
def Obligations.TimingAndCounterReads : Prop :=
  ∀ s : State, s.div < 2 ^ 32 → s.period < 2 ^ 32 → s.onCnt < 2 ^ 32 →
    exec .rdScanUs s = .next { s with rdata := some s.scanUs }
      ∧ exec .rdScanAch s = .next { s with rdata := some s.achUs }
      ∧ exec .rdTickcnt s = .next { s with rdata := some s.tickcnt }
      ∧ exec .rdFramecnt s = .next { s with rdata := some s.framecnt }
      ∧ (∃ w : Word, w.toNat = s.div ∧ exec .rdDiv s = .next { s with rdata := some w })
      ∧ (∃ w : Word, w.toNat = s.period ∧ exec .rdPeriod s = .next { s with rdata := some w })
      ∧ (∃ w : Word, w.toNat = s.onCnt ∧ exec .rdOncnt s = .next { s with rdata := some w })

/-- R206, R208, R214, R216, R218: the brightness, swap and configuration registers answer their fields at their bit
positions, reserved bits 0 (R162), and change nothing else. -/
def Obligations.ConfigurationReads : Prop :=
  ∀ s : State,
    (∃ w : Word, exec .rdBright s = .next { s with rdata := some w }
        ∧ w.extractLsb' 0 8 = s.bright ∧ w.extractLsb' 8 24 = 0#24)
      ∧ exec .rdSwap s = .next { s with rdata := some 0#32 }
      ∧ (∃ w : Word, exec .rdGeom0 s = .next { s with rdata := some w }
        ∧ w.extractLsb' 0 8 = s.pw ∧ w.extractLsb' 8 8 = s.ph ∧ w.extractLsb' 16 4 = s.nx ∧ w.extractLsb' 20 4 = s.ny
        ∧ w.extractLsb' 24 8 = 0#8)
      ∧ (∃ w : Word, exec .rdGeom1 s = .next { s with rdata := some w }
        ∧ w.extractLsb' 0 6 = s.nrows ∧ w.extractLsb' 6 2 = 0#2 ∧ w.extractLsb' 8 6 = s.muxcnt
        ∧ w.extractLsb' 14 18 = 0#18)
      ∧ (∃ w : Word, exec .rdPol s = .next { s with rdata := some w }
        ∧ w.getLsbD 0 = s.selLvl ∧ w.getLsbD 1 = s.dataInv ∧ w.getLsbD 2 = s.oeLow ∧ w.extractLsb' 3 29 = 0#29)

/-- R224 to R227: the mux table registers answer the table's entries and change nothing else. -/
def Obligations.MuxTableReads : Prop :=
  ∀ (s : State) (idx : BitVec 5),
    (∃ w, s.muxset[idx.toNat]? = some w ∧ exec (.rdMuxset idx) s = .next { s with rdata := some w })
      ∧ (∃ w, s.muxset[32]? = some w ∧ exec .rdMuxset32 s = .next { s with rdata := some w })
      ∧ (∃ w, s.muxclr[idx.toNat]? = some w ∧ exec (.rdMuxclr idx) s = .next { s with rdata := some w })
      ∧ (∃ w, s.muxclr[32]? = some w ∧ exec .rdMuxclr32 s = .next { s with rdata := some w })

/-! ### Buffer windows -/

/-- R105, R281 to R283, R287 to R289: an aligned window read answers the bytes of the back or the front slot,
little-endian and zero-extended, and changes nothing else. -/
def Obligations.BufferReadsLittleEndian : Prop :=
  ∀ (s : State) (i : BitVec 12),
    exec (.rd8Back i) s = .next { s with rdata := some ((bufRead (bslot s) i.toNat s).setWidth 32) }
      ∧ exec (.rd8Front i) s = .next { s with rdata := some ((bufRead (fslot s) i.toNat s).setWidth 32) }
      ∧ (i.toNat % 2 = 0 →
          exec (.rd16Back i) s = .next { s with rdata := some ((bufRead (bslot s) (i.toNat + 1) s ++ bufRead (bslot s) i.toNat s).setWidth 32) }
            ∧ exec (.rd16Front i) s = .next { s with rdata := some ((bufRead (fslot s) (i.toNat + 1) s ++ bufRead (fslot s) i.toNat s).setWidth 32) })
      ∧ (i.toNat % 4 = 0 →
          exec (.rd32Back i) s = .next { s with rdata := some (bufRead (bslot s) (i.toNat + 3) s ++ bufRead (bslot s) (i.toNat + 2) s
                ++ bufRead (bslot s) (i.toNat + 1) s ++ bufRead (bslot s) i.toNat s) }
            ∧ exec (.rd32Front i) s = .next { s with rdata := some (bufRead (fslot s) (i.toNat + 3) s ++ bufRead (fslot s) (i.toNat + 2) s
                ++ bufRead (fslot s) (i.toNat + 1) s ++ bufRead (fslot s) i.toNat s) })

/-- R106, R284 to R286: an aligned BACK write completes; the bytes it names of the back slot take the low bytes of
`DATA`, low byte first, every other byte of both slots reads as before, and nothing else changes but the response. The
response `none` is the model's (log entry 6). -/
def Obligations.BufferWritesStoreBytes : Prop :=
  ∀ (s : State) (i : BitVec 12) (v : Word), Memory.wf s.store = true →
    ∀ (n : Nat) (ins : Instr),
      (n = 1 ∧ ins = .wr8Back i v) ∨ (n = 2 ∧ i.toNat % 2 = 0 ∧ ins = .wr16Back i v)
        ∨ (n = 4 ∧ i.toNat % 4 = 0 ∧ ins = .wr32Back i v) →
      ∃ t, exec ins s = .next t
        ∧ t = { s with store := t.store, rdata := none }
        ∧ (∀ k, k < n → bufRead (bslot s) (i.toNat + k) t = v.extractLsb' (8 * k) 8)
        ∧ ∀ k j, ¬(k = bslot s ∧ i.toNat ≤ j ∧ j < i.toNat + n) → bufRead k j t = bufRead k j s

/-- R104: after a word write of `v` at BACK offset `a`, a byte read at `a + k` returns `v[8k+7:8k]`, and a halfword read
at `a + 2` returns `v[31:16]`. -/
def Obligations.MixedWidthAccess : Prop :=
  ∀ (s t : State) (a : BitVec 12) (v : Word), Memory.wf s.store = true → a.toNat % 4 = 0 →
    exec (.wr32Back a v) s = .next t →
    (∀ k : Nat, k ≤ 3 → exec (.rd8Back (a + BitVec.ofNat 12 k)) t
        = .next { t with rdata := some ((v.extractLsb' (8 * k) 8).setWidth 32) })
      ∧ exec (.rd16Back (a + 2#12)) t = .next { t with rdata := some ((v.extractLsb' 16 16).setWidth 32) }

/-- R107, R160, R282, R283, R285, R286, R288, R289: a misaligned halfword or word form is a bus error that reads 0 or
writes nothing. These forms have no encoding: their meaning is the model's (log entry 11), as is the response `none` of
a write (log entry 6). -/
def Obligations.MisalignedFormsAreBusErrors : Prop :=
  ∀ (s : State) (i : BitVec 12) (v : Word),
    (i.toNat % 2 ≠ 0 →
        exec (.rd16Back i) s = .next { s with berr := true, rdata := some 0#32 }
          ∧ exec (.rd16Front i) s = .next { s with berr := true, rdata := some 0#32 }
          ∧ exec (.wr16Back i v) s = .next { s with berr := true, rdata := none })
      ∧ (i.toNat % 4 ≠ 0 →
        exec (.rd32Back i) s = .next { s with berr := true, rdata := some 0#32 }
          ∧ exec (.rd32Front i) s = .next { s with berr := true, rdata := some 0#32 }
          ∧ exec (.wr32Back i v) s = .next { s with berr := true, rdata := none })

/-! ### Register writes -/

/-- R205, R207, R211: `WR_STATUS` clears the sticky bits written 1, `WR_BRIGHT` stores `DATA[7:0]`, `WR_SCAN_US` stores
`DATA` and while running asks for a reload; each changes nothing else. The response `none` is the model's (log entry 6).
-/
def Obligations.PlainRegisterWrites : Prop :=
  ∀ (s : State) (d : Word),
    exec (.wrStatus d) s = .next { s with
        cfgerr := if d.getLsbD 6 then false else s.cfgerr
        berr := if d.getLsbD 7 then false else s.berr
        rdata := none }
      ∧ exec (.wrBright d) s = .next { s with bright := d.extractLsb' 0 8, rdata := none }
      ∧ exec (.wrScanUs d) s = .next { s with
        scanUs := d
        reloadPending := if s.run then true else s.reloadPending
        rdata := none }

/-- R215, R217, R219: while stopped a configuration write stores its fields and changes nothing else; while running it
is a bus error and the register keeps its value. The response `none` is the model's (log entry 6). -/
def Obligations.ConfigurationWrites : Prop :=
  ∀ (s : State) (d : Word),
    (s.run = false →
        exec (.wrGeom0 d) s = .next { s with
            pw := d.extractLsb' 0 8, ph := d.extractLsb' 8 8, nx := d.extractLsb' 16 4, ny := d.extractLsb' 20 4
            rdata := none }
          ∧ exec (.wrGeom1 d) s = .next { s with
            nrows := d.extractLsb' 0 6, muxcnt := d.extractLsb' 8 6, rdata := none }
          ∧ exec (.wrPol d) s = .next { s with
            selLvl := d.getLsbD 0, dataInv := d.getLsbD 1, oeLow := d.getLsbD 2, rdata := none })
      ∧ (s.run = true →
        exec (.wrGeom0 d) s = .next { s with berr := true, rdata := none }
          ∧ exec (.wrGeom1 d) s = .next { s with berr := true, rdata := none }
          ∧ exec (.wrPol d) s = .next { s with berr := true, rdata := none })

/-- R209, R382, R383, R386: a `SWAP` write is a no-op without `REQ`, single-buffered, while a swap is pending or while a
copy runs; else it arms the request while running and exchanges the slots at once while stopped, with the copy it asks
for. The response `none` is the model's (log entry 6). -/
def Obligations.SwapRequests : Prop :=
  ∀ (s : State) (d : Word),
    (d.getLsbD 0 = false ∨ s.db = false ∨ s.swapReq = true ∨ s.copyBusy = true →
        exec (.wrSwap d) s = .next { s with rdata := none })
      ∧ (d.getLsbD 0 = true → s.db = true → s.swapReq = false → s.copyBusy = false →
        (s.run = true → exec (.wrSwap d) s = .next { s with swapReq := true, copyReq := d.getLsbD 1, rdata := none })
          ∧ (s.run = false → exec (.wrSwap d) s = .next { s with
            front := 1 - s.front
            copyReq := false
            copyBusy := d.getLsbD 1
            copyIdx := if d.getLsbD 1 then 0 else s.copyIdx
            rdata := none }))

/-- R203, R475: a `CTRL` write that starts nothing and stops nothing. While running, `EN = 1` is a no-op, or a bus error
if `DB` would change. While stopped a `DB` change is a bus error while a copy runs, and with `EN = 0` otherwise stores
`DB`; `DB = 0` forces the front index to 0. The response `none` is the model's (log entry 6). -/
def Obligations.ControlWritesWithoutStartOrStop : Prop :=
  ∀ (s : State) (d : Word),
    (s.run = true → d.getLsbD 0 = true →
        exec (.wrCtrl d) s
          = .next (if d.getLsbD 1 = s.db then { s with rdata := none } else { s with berr := true, rdata := none }))
      ∧ (s.run = false → d.getLsbD 1 ≠ s.db → s.copyBusy = true →
        exec (.wrCtrl d) s = .next { s with berr := true, rdata := none })
      ∧ (s.run = false → d.getLsbD 0 = false → d.getLsbD 1 = s.db →
        exec (.wrCtrl d) s = .next { s with rdata := none })
      ∧ (s.run = false → d.getLsbD 0 = false → d.getLsbD 1 ≠ s.db → s.copyBusy = false →
        exec (.wrCtrl d) s = .next { s with
          db := d.getLsbD 1, front := if d.getLsbD 1 then s.front else 0, rdata := none })

/-- R324: a start with an invalid configuration is refused: `CFGERR` is set and nothing else changes, but for the `DB`
the same write may store (log entry 21). R322: a configuration is valid exactly when its panels are whole bytes wide, it
has panels in both directions, 1 to 32 rows that divide the panel's lines, a frame that fits a slot, and a direct or a
binary mux; so five rows with three lines are invalid and the reset configuration is valid. The response `none` is the
model's (log entry 6). -/
def Obligations.RefusedStart : Prop :=
  (∀ (s : State) (d : Word), s.run = false → d.getLsbD 0 = true → cfgValid s = false →
      (d.getLsbD 1 = s.db → exec (.wrCtrl d) s = .next { s with cfgerr := true, rdata := none })
        ∧ (d.getLsbD 1 ≠ s.db → s.copyBusy = false → exec (.wrCtrl d) s = .next { s with
          db := d.getLsbD 1, front := if d.getLsbD 1 then s.front else 0, cfgerr := true, rdata := none }))
    ∧ (∀ s : State, cfgValid s = true ↔
        8 ≤ s.pw.toNat ∧ s.pw.toNat % 8 = 0 ∧ 1 ≤ s.nx.toNat ∧ 1 ≤ s.ny.toNat
          ∧ 1 ≤ s.nrows.toNat ∧ s.nrows.toNat ≤ 32 ∧ 1 ≤ s.ph.toNat ∧ s.ph.toNat % s.nrows.toNat = 0
          ∧ s.nx.toNat * s.ny.toNat * s.pw.toNat * s.ph.toNat / 8 ≤ 4096
          ∧ (s.muxcnt = s.nrows
            ∨ (1 ≤ s.muxcnt.toNat ∧ s.muxcnt.toNat < s.nrows.toNat ∧ s.nrows.toNat = 2 ^ s.muxcnt.toNat)))
    ∧ (∀ s : State, s.nrows = 5#6 → s.muxcnt = 3#6 → cfgValid s = false)
    ∧ cfgValid State.reset = true

/-- R323, R258, R432, R434, R455: an accepted start completes with the block running: the timing computed, the table
generated, the sequencer cleared, every mux line at 0, and row 0 of the front slot shifted out (REG) or its transfer
started (PIO). Everything else is as before, but for the panel's registers, whose length becomes `L`, and the draws they
take; a start with the same `L` draws none, keeps the latch register and, under PIO, the shift register. How the
unspecified bits are drawn and the response `none` are the model's (log entries 6 and 7). -/
def Obligations.AcceptedStart : Prop :=
  ∀ (s : State) (d : Word), s.run = false → d.getLsbD 0 = true → cfgValid s = true →
    (d.getLsbD 1 = s.db ∨ s.copyBusy = false) →
    ∃ t, exec (.wrCtrl d) s = .next t
      ∧ t.db = d.getLsbD 1 ∧ t.front = (if d.getLsbD 1 = s.db ∨ d.getLsbD 1 = true then s.front else 0)
      ∧ (let r := computeTiming s.par.fTimerHz s.par.timerWidth s.par.divMax s.scanUs.toNat
         t.div = r.div ∧ t.period = r.period ∧ t.achUs.toNat = r.achUs)
      ∧ (∀ i, i ≤ 32 → muxEntry t.muxset i = (tableEntry s i).1 ∧ muxEntry t.muxclr i = (tableEntry s i).2)
      ∧ (let out := rowLevels (fslot t) 0 (rowBytes s) s
         (s.par.backend = .reg →
            t.trace = s.trace ++ .muxSet 0#32 :: out.map .bit
              ∧ t.panelSr = out ∧ out.getLast? = some t.dataLvl ∧ t.clkLvl = false
              ∧ t.shRem = s.shRem ∧ t.shSrc = s.shSrc ∧ t.shSlot = s.shSlot)
           ∧ (s.par.backend = .pio →
            t.trace = s.trace ++ [.muxSet 0#32]
              ∧ t.dataLvl = s.dataLvl ∧ t.clkLvl = s.clkLvl
              ∧ t.shRem = rowBytes s ∧ t.shSrc = 0 ∧ t.shSlot = fslot t
              ∧ (s.panelSr.length = chainBits s → s.panelLr.length = chainBits s → t.panelSr = s.panelSr)))
      ∧ t.panelSr.length = chainBits s ∧ t.panelLr.length = chainBits s
      ∧ (s.panelSr.length = chainBits s → s.panelLr.length = chainBits s → t.panelLr = s.panelLr ∧ t.draws = s.draws)
      ∧ t = { s with
          run := true, db := t.db, front := t.front, div := t.div, period := t.period, achUs := t.achUs
          reloadPending := false, muxset := t.muxset, muxclr := t.muxclr
          row := 0, nm := 0, phase := 0, busy := false, cnt := 0, oeArmed := false, onCnt := 0, muxPend := none
          muxLvl := 0#32, dataLvl := t.dataLvl, clkLvl := t.clkLvl, shRem := t.shRem, shSrc := t.shSrc, shSlot := t.shSlot
          trace := t.trace, panelSr := t.panelSr, panelLr := t.panelLr, draws := t.draws, rdata := none }

/-- R326, R386, R203: `EN = 0` while running stops the block: OE closes, the timer, the PIO agents and a pending reload
are cleared, a pending swap is exchanged with the copy it asked for, and a `DB` change in the same write is stored.
Nothing else changes. A write whose `DB` change a copy forbids, one that runs or one the stop would start, is a bus
error with no other effect (R16): the block keeps running. This reading of R203 (log entry 12) and the response `none`
(log entry 6) are the model's. -/
def Obligations.StopClearsTheRun : Prop :=
  ∀ (s : State) (d : Word), s.run = true → d.getLsbD 0 = false →
    let copying := s.copyBusy || (s.swapReq && s.copyReq)
    (d.getLsbD 1 ≠ s.db → copying = true → exec (.wrCtrl d) s = .next { s with berr := true, rdata := none })
      ∧ (d.getLsbD 1 = s.db ∨ copying = false → exec (.wrCtrl d) s = .next
        (let front := if s.swapReq then 1 - s.front else s.front
         { s with
            run := false, cnt := 0, oeArmed := false, shRem := 0, muxPend := none, reloadPending := false
            trace := if s.oeArmed then s.trace ++ [.oeOff] else s.trace
            swapReq := false
            copyReq := if s.swapReq then false else s.copyReq
            copyBusy := copying
            copyIdx := if s.swapReq && s.copyReq then 0 else s.copyIdx
            db := d.getLsbD 1
            front := if d.getLsbD 1 = s.db ∨ d.getLsbD 1 = true then front else 0
            rdata := none }))

/-! ### The row timer and the light window -/

/-- R330, R331: a TIMER step counts up to the end of the row period; there it ticks: the count restarts, `TICKCNT` goes
up by one, the burst begins, and a pending reload loads the new timing. Nothing else changes. -/
def Obligations.TimerStepCountsOrTicks : Prop :=
  ∀ s : State, s.run = true → s.busy = false →
    (s.cnt + 1 < s.period → takeTurn (.agent .timer) s = .next { s with cnt := s.cnt + 1 })
      ∧ (¬(s.cnt + 1 < s.period) → s.reloadPending = false →
        takeTurn (.agent .timer) s = .next { s with cnt := 0, tickcnt := s.tickcnt + 1#32, busy := true })
      ∧ (¬(s.cnt + 1 < s.period) → s.reloadPending = true →
        ∃ a : Word, a.toNat = (computeTiming s.par.fTimerHz s.par.timerWidth s.par.divMax s.scanUs.toNat).achUs
          ∧ takeTurn (.agent .timer) s = .next { s with
              cnt := 0, tickcnt := s.tickcnt + 1#32, busy := true, reloadPending := false
              div := (computeTiming s.par.fTimerHz s.par.timerWidth s.par.divMax s.scanUs.toNat).div
              period := (computeTiming s.par.fTimerHz s.par.timerWidth s.par.divMax s.scanUs.toNat).period
              achUs := a })

/-- R332: `TICKCNT` goes up by exactly 1 at every tick and changes at nothing else but the platform's reset; and while
running the timing changes only at a tick, by the reload it applies. -/
def Obligations.TickCountChangesOnlyAtTicks : Prop :=
  ∀ (τ : Turn) (s t : State), τ ≠ .reset → takeTurn τ s = .next t →
    (let tick := τ = .agent .timer ∧ s.run = true ∧ s.busy = false ∧ ¬(s.cnt + 1 < s.period)
     (tick → t.tickcnt = s.tickcnt + 1#32) ∧ (¬tick → t.tickcnt = s.tickcnt)
       ∧ (s.run = true → ¬(tick ∧ s.reloadPending = true) → t.div = s.div ∧ t.period = s.period ∧ t.achUs = s.achUs))

/-- R421: no requested interval is refused: the divider and the period are always in range, and an interval too long for
the timer takes the longest period it has; with the rule's eight examples. Derived of R420 besides: the achieved period
fits its register, and an interval that fits the counter undivided is met to the count. -/
def Obligations.RowTimingInRange : Prop :=
  (∀ f w divMax us : Nat, 1 ≤ f → 1 ≤ divMax →
      let r := computeTiming f w divMax us
      1 ≤ r.div ∧ r.div ≤ divMax ∧ 1 ≤ r.period ∧ r.period ≤ 2 ^ w ∧ r.achUs ≤ 0xFFFFFFFF
        ∧ (wantedCycles f us ≤ 2 ^ w → r.div = 1 ∧ r.period = wantedCycles f us)
        ∧ (divMax * 2 ^ w < wantedCycles f us → r.div = divMax ∧ r.period = 2 ^ w))
    ∧ computeTiming 72000000 16 65536 2000 = ⟨3, 48000, 2000⟩
    ∧ computeTiming 1000000 16 65536 2000 = ⟨1, 2000, 2000⟩
    ∧ computeTiming 1000000 16 65536 0 = ⟨1, 1, 1⟩
    ∧ computeTiming 1000000 16 65536 100000 = ⟨2, 50000, 100000⟩
    ∧ computeTiming 1000000 16 65536 0xFFFFFFFF = ⟨65536, 65536, 0xFFFFFFFF⟩
    ∧ computeTiming 1000000 16 1 100000 = ⟨1, 65536, 65536⟩
    ∧ computeTiming 1000000 8 65536 1000 = ⟨4, 250, 1000⟩
    ∧ computeTiming 3000000 16 65536 7 = ⟨1, 21, 7⟩
    ∧ [(72000000, 2000), (1000000, 2000), (1000000, 0), (1000000, 100000), (1000000, 0xFFFFFFFF), (1000000, 1000),
        (3000000, 7)].map (fun x => wantedCycles x.1 x.2)
      = [144000, 2000, 1, 100000, 4294967295, 1000, 21]

/-- R341: the light window of the next row is `period * bright / 255` counts, rounded down: none at brightness 0, the
whole row period at 255, and less than it in between. -/
def Obligations.LightWindowFollowsBrightness : Prop :=
  ∀ s t : State, s.run = true → s.busy = true → s.phase = 0 → takeTurn (.agent .seq) s = .next t →
    t.onCnt = s.period * s.bright.toNat / 255
      ∧ (s.bright = 0#8 → t.onCnt = 0)
      ∧ (s.bright = 255#8 → t.onCnt = s.period)
      ∧ (s.bright ≠ 255#8 → 0 < s.period → t.onCnt < s.period)
      ∧ (s.period = 1000 → s.bright = 128#8 → t.onCnt = 501)

/-- R60, R334: OE is inactive in every burst, while stopped and before the window is opened; otherwise it is active for
exactly the first `on_cnt` counts of the row period. The pin is its level XOR `OE_LOW`. -/
def Obligations.OutputEnableWindow : Prop :=
  ∀ s : State,
    (s.run = false ∨ s.busy = true ∨ s.oeArmed = false → oeActive s = false)
      ∧ (s.run = true → s.busy = false → s.oeArmed = true → (oeActive s = true ↔ s.cnt < s.onCnt))
      ∧ (oePin s = true ↔ (oeActive s = true ↔ s.oeLow = false))

/-! ### The sequencer -/

/-- R340, R441: phase 0 closes the light window, computes the next one, and selects the row: REG writes the entry's
masks to the mux lines, PIO hands the entry's row number to the mux state machine. Nothing else changes. -/
def Obligations.PhaseZeroSelectsRow : Prop :=
  ∀ (s : State) (setMask clrMask : Word), s.run = true → s.busy = true → s.phase = 0 →
    s.muxset[s.nm]? = some setMask → s.muxclr[s.nm]? = some clrMask →
    (s.par.backend = .reg →
        takeTurn (.agent .seq) s = .next { s with
          trace := s.trace ++ [.oeOff, .muxSet ((s.muxLvl &&& ~~~clrMask) ||| setMask)]
          muxLvl := (s.muxLvl &&& ~~~clrMask) ||| setMask
          oeArmed := false, onCnt := s.period * s.bright.toNat / 255, phase := 1 })
      ∧ (s.par.backend = .pio →
        takeTurn (.agent .seq) s = .next { s with
          trace := s.trace ++ [.oeOff]
          muxPend := some setMask.toNat
          oeArmed := false, onCnt := s.period * s.bright.toNat / 255, phase := 1 })

/-- R342, R343, R451: phase 1 pulses the latch, so that the panel's latch register takes the shifted row, and opens the
light window; under PIO it waits until the mux lines are driven and the row shift is complete. Nothing else changes. -/
def Obligations.PhaseOneLatches : Prop :=
  ∀ s : State, s.run = true → s.busy = true → s.phase = 1 →
    (s.par.backend = .reg ∨ (s.muxPend = none ∧ s.shRem = 0) →
        takeTurn (.agent .seq) s = .next { s with
          trace := s.trace ++ [.latch, .oeOn s.onCnt], latLvl := false, panelLr := s.panelSr, oeArmed := true, phase := 2 })
      ∧ (s.par.backend = .pio → (s.muxPend ≠ none ∨ s.shRem ≠ 0) → takeTurn (.agent .seq) s = .next s)

/-- R344, R345, R384, R383: phase 2 does nothing but at the frame boundary, where it counts the frame and exchanges the
slots if a swap is pending. -/
def Obligations.PhaseTwoSwapsAtBoundary : Prop :=
  ∀ s : State, s.run = true → s.busy = true → s.phase = 2 →
    (s.row ≠ s.nrows.toNat - 1 → takeTurn (.agent .seq) s = .next { s with phase := 3 })
      ∧ (s.row = s.nrows.toNat - 1 → s.swapReq = false →
        takeTurn (.agent .seq) s = .next { s with framecnt := s.framecnt + 1#32, phase := 3 })
      ∧ (s.row = s.nrows.toNat - 1 → s.swapReq = true →
        takeTurn (.agent .seq) s = .next { s with
          framecnt := s.framecnt + 1#32, phase := 3
          front := 1 - s.front, swapReq := false, copyReq := false
          copyBusy := s.copyBusy || s.copyReq
          copyIdx := if s.copyReq then 0 else s.copyIdx })

/-- R348, R432, R484: phase 3 starts the shift of the next row of the front slot, moves the lookahead index and the row
on, and ends the burst. Nothing else changes. -/
def Obligations.PhaseThreeAdvances : Prop :=
  ∀ s : State, s.run = true → s.busy = true → s.phase = 3 →
    ∃ t, takeTurn (.agent .seq) s = .next t
      ∧ (s.par.backend = .reg →
          let out := rowLevels (fslot s) ((s.row + 1) % s.nrows.toNat * rowBytes s) (rowBytes s) s
          (s.panelSr.length = chainBits s → t.panelSr = out)
            ∧ (∀ d, out.getLast? = some d → t.dataLvl = d ∧ t.clkLvl = false)
            ∧ t = { s with
              nm := s.row + 1, row := (s.row + 1) % s.nrows.toNat, phase := 0, busy := false
              trace := s.trace ++ out.map .bit
              dataLvl := t.dataLvl, clkLvl := t.clkLvl, panelSr := t.panelSr })
      ∧ (s.par.backend = .pio →
          t = { s with
            nm := s.row + 1, row := (s.row + 1) % s.nrows.toNat, phase := 0, busy := false
            shSlot := fslot s, shSrc := (s.row + 1) % s.nrows.toNat * rowBytes s, shRem := rowBytes s })

/-- R350: each burst is exactly four SEQ steps, in the order 0, 1, 2, 3: a SEQ step that is enabled runs the phase the
counter names and moves it to the next, and the one after phase 3 ends the burst; no other turn moves the counter during
a burst, but the platform's reset. -/
def Obligations.PhasesAreCyclic : Prop :=
  ∀ (τ : Turn) (s t : State), τ ≠ .reset → s.busy = true → takeTurn τ s = .next t →
    (τ = .agent .seq → enabled .seq s = true → t.phase = s.phase + 1 ∧ (t.busy = true ↔ s.phase ≠ 3))
      ∧ (¬(τ = .agent .seq ∧ enabled .seq s = true) → t.phase = s.phase ∧ t.busy = true)

/-- R353, R349, R454, R390: one REG burst emits `OeOff`, `MuxSet(v)`, `Latch`, `OeOn(n)` and the bits of the next row,
in this order; after it the panel's latch register holds what its shift register held, the mux lines select the burst's
row, and the shift register holds the next row, taken from the slot that is the front after the burst: another slot than
before exactly at the frame boundary with a swap pending. -/
def Obligations.RegBurst : Prop :=
  ∀ s : State, Invariant s → s.par.backend = .reg → s.run = true → s.busy = true → s.phase = 0 →
    let t := afterTurns [.agent .seq, .agent .seq, .agent .seq, .agent .seq] s
    let out := rowLevels (fslot t) ((s.row + 1) % s.nrows.toNat * rowBytes s) (rowBytes s) s
    t.busy = false ∧ t.row = (s.row + 1) % s.nrows.toNat
      ∧ t.trace = s.trace ++ [.oeOff, .muxSet t.muxLvl, .latch, .oeOn t.onCnt] ++ out.map .bit
      ∧ t.panelLr = s.panelSr ∧ t.panelSr = out ∧ selrow t t.muxLvl = some s.row
      ∧ (fslot t ≠ fslot s ↔ s.swapReq = true ∧ s.row = s.nrows.toNat - 1)

/-! ### The backends -/

/-- R435: a SHIFT step shifts one byte out, its eight bits most significant first and inverted as `DATA_INV` says, and
moves on to the next; the panel takes the eight levels in. Nothing else changes. -/
def Obligations.ShiftStepMovesOneByte : Prop :=
  ∀ s : State, s.par.backend = .pio → 0 < s.shRem → 8 ≤ s.panelSr.length →
    let v := bufRead s.shSlot s.shSrc s
    let out := [v.getLsbD 7 ^^ s.dataInv, v.getLsbD 6 ^^ s.dataInv, v.getLsbD 5 ^^ s.dataInv, v.getLsbD 4 ^^ s.dataInv,
      v.getLsbD 3 ^^ s.dataInv, v.getLsbD 2 ^^ s.dataInv, v.getLsbD 1 ^^ s.dataInv, v.getLsbD 0 ^^ s.dataInv]
    takeTurn (.agent .shift) s = .next { s with
      shSrc := s.shSrc + 1, shRem := s.shRem - 1
      trace := s.trace ++ out.map .bit, dataLvl := v.getLsbD 0 ^^ s.dataInv, clkLvl := false
      panelSr := s.panelSr.drop 8 ++ out }

/-- R436: a PIO row shift is exactly `RB` SHIFT steps; they emit the events, and leave the panel as, the REG shift of
the same bytes does, and the shifter is then idle. -/
def Obligations.PioShiftEqualsRegShift : Prop :=
  ∀ (s : State) (k : Fin 2) (base : Nat), s.par.backend = .pio →
    let after := fun n => afterTurns (List.replicate n (.agent .shift)) (shiftRowPio k base s)
    let t := after (rowBytes s)
    let u := shiftRowReg k base s
    (∀ n, n ≤ rowBytes s → (after n).shRem = rowBytes s - n)
      ∧ t.trace = u.trace ∧ t.panelSr = u.panelSr ∧ t.dataLvl = u.dataLvl ∧ t.clkLvl = u.clkLvl ∧ t.store = s.store
      ∧ t.shSrc = base + rowBytes s

/-- R440, R252, R253: the MUXSM step drives the lines of the pending row below `MUXCNT`, the others 0, and the row is no
longer pending: one line at `SEL_LVL` for a direct mux, the row number for a binary one. Nothing else changes. -/
def Obligations.MuxsmDrivesPendingRow : Prop :=
  ∀ (s : State) (i : Nat), s.par.backend = .pio → s.muxPend = some i → i < s.nrows.toNat → cfgValid s = true →
    ∃ v : Word, takeTurn (.agent .muxsm) s
        = .next { s with muxLvl := v, trace := s.trace ++ [.muxSet v], muxPend := none }
      ∧ ∀ j, j < 32 → v.getLsbD j =
          (decide (j < s.muxcnt.toNat) &&
            if s.muxcnt = s.nrows then (if j = i then s.selLvl else !s.selLvl) else i.testBit j)

/-- R261: in every valid configuration, under each backend, applying any entry of the generated table to lines whose
unused ones are 0 selects exactly the entry's row and leaves the unused ones 0 (R255), and the entry `nrows` equals
entry 0. -/
def Obligations.MuxTableSelectsOneRow : Prop :=
  ∀ s : State, cfgValid s = true → s.muxLvl &&& ~~~(lineMask s) = 0#32 →
    ∀ i, i ≤ s.nrows.toNat →
      let g := generateMuxTable s
      let u := match s.par.backend with
        | .reg => applyMux i g
        | .pio => muxsmStep (applyMux i g)
      selrow u u.muxLvl = some (i % s.nrows.toNat)
        ∧ u.muxLvl &&& ~~~(lineMask s) = 0#32
        ∧ muxEntry g.muxset s.nrows.toNat = muxEntry g.muxset 0 ∧ muxEntry g.muxclr s.nrows.toNat = muxEntry g.muxclr 0

/-- R442, R444: for each table index up to `nrows` the REG backend's phase 0 and the PIO backend's phase 0 with its
MUXSM step drive the mux lines to the same levels, those of the index's row modulo `nrows`. -/
def Obligations.BackendsDriveSameLevels : Prop :=
  ∀ s : State, cfgValid s = true → s.muxLvl &&& ~~~(lineMask s) = 0#32 →
    ∀ i, i ≤ s.nrows.toNat →
      let reg := generateMuxTable { s with par := { s.par with backend := .reg } }
      let pio := generateMuxTable { s with par := { s.par with backend := .pio } }
      (applyMux i reg).muxLvl = muxLevel s (i % s.nrows.toNat) &&& lineMask s
        ∧ (muxsmStep (applyMux i pio)).muxLvl = muxLevel s (i % s.nrows.toNat) &&& lineMask s

/-! ### The swap arbiter and the copy engine -/

/-- R388: a COPY step copies the next byte of the front slot into the back slot; the byte 4095 ends the copy. Nothing
else changes. -/
def Obligations.CopyStepCopiesOneByte : Prop :=
  ∀ s : State, s.copyBusy = true → s.copyIdx < 4096 → Memory.wf s.store = true →
    ∃ t, takeTurn (.agent .copy) s = .next t
      ∧ t = { s with store := t.store, copyIdx := s.copyIdx + 1, copyBusy := decide (s.copyIdx ≠ 4095) }
      ∧ bufRead (bslot s) s.copyIdx t = bufRead (fslot s) s.copyIdx s
      ∧ ∀ k j, ¬(k = bslot s ∧ j = s.copyIdx) → bufRead k j t = bufRead k j s

/-- R388, R389, R385: a copy ends after exactly the COPY steps its bytes ask for, and not before; the back slot then
holds the front slot's bytes from where the copy stood on, and the front slot is unchanged. -/
def Obligations.CopyEndsWithEqualSlots : Prop :=
  ∀ s : State, s.copyBusy = true → s.copyIdx < 4096 → s.db = true → Memory.wf s.store = true →
    (∀ n, n < 4096 - s.copyIdx → (afterTurns (List.replicate n (.agent .copy)) s).copyBusy = true)
      ∧ (let t := afterTurns (List.replicate (4096 - s.copyIdx) (.agent .copy)) s
         t.copyBusy = false ∧ t.copyIdx = 4096
           ∧ (∀ i, s.copyIdx ≤ i → i < 4096 → bufRead (bslot s) i t = bufRead (fslot s) i s)
           ∧ (∀ i, i < s.copyIdx → bufRead (bslot s) i t = bufRead (bslot s) i s)
           ∧ ∀ i, bufRead (fslot s) i t = bufRead (fslot s) i s)

/-! ### The whole machine -/

/-- R325: the block does not start at reset; it leaves the stopped state only by a `CTRL` write with `EN = 1`, and
nothing but a `CTRL` write with `EN = 0` or the platform's reset stops it. -/
def Obligations.RunChangesOnlyByControl : Prop :=
  State.reset.run = false
    ∧ ∀ (τ : Turn) (s t : State), takeTurn τ s = .next t →
      (s.run = false → t.run = true → ∃ d, HostPerforms τ s (.wrCtrl d) ∧ d.getLsbD 0 = true)
        ∧ (s.run = true → t.run = false → τ = .reset ∨ ∃ d, HostPerforms τ s (.wrCtrl d) ∧ d.getLsbD 0 = false)

/-- R551, R121(c), R250: as long as the block runs, no turn changes the geometry, the polarities, the double-buffer flag
or the mux mask table. -/
def Obligations.ConfigurationFixedWhileRunning : Prop :=
  ∀ (τ : Turn) (s t : State), takeTurn τ s = .next t → s.run = true → t.run = true → SameConfig s t ∧ SameTable s t

/-- R121(a), R384, R386: the front slot changes only in SEQ phase 2 at the frame boundary with a swap pending, in a
stop, at a `SWAP` write while stopped, at a `CTRL` write while stopped that changes `DB` (R203, R562), or at the
platform's reset. R121(a) does not name the `CTRL` write (log entry 13). -/
def Obligations.FrontSlotChangesOnlyAtExchange : Prop :=
  ∀ (τ : Turn) (s t : State), takeTurn τ s = .next t → fslot t ≠ fslot s →
    τ = .reset
      ∨ (τ = .agent .seq ∧ s.run = true ∧ s.busy = true ∧ s.phase = 2 ∧ s.row = s.nrows.toNat - 1 ∧ s.swapReq = true)
      ∨ (∃ d, HostPerforms τ s (.wrCtrl d) ∧ ((s.run = true ∧ d.getLsbD 0 = false) ∨ (s.run = false ∧ d.getLsbD 1 ≠ s.db)))
      ∨ ∃ d, HostPerforms τ s (.wrSwap d) ∧ s.run = false ∧ d.getLsbD 0 = true

/-- R121(b), R106: no turn but the host's BACK write, the COPY step and the platform's reset changes a buffer byte, and
the first two change bytes of the back slot only. -/
def Obligations.OnlyHostAndCopyWriteBuffers : Prop :=
  ∀ (τ : Turn) (s t : State) (k : Fin 2) (i : Nat), takeTurn τ s = .next t → bufRead k i t ≠ bufRead k i s →
    τ = .reset
      ∨ (k = bslot s ∧ (τ = .agent .copy
          ∨ ∃ j d, HostPerforms τ s (.wr8Back j d) ∨ HostPerforms τ s (.wr16Back j d) ∨ HostPerforms τ s (.wr32Back j d)))

/-- R70: the output trace only grows, but for the platform's reset, and a turn that emits nothing leaves the mux lines,
the data line and the panel's registers as they are (R59, R76). -/
def Obligations.TraceOnlyGrows : Prop :=
  ∀ (τ : Turn) (s t : State), τ ≠ .reset → takeTurn τ s = .next t →
    ∃ es, t.trace = s.trace ++ es
      ∧ (es = [] → t.muxLvl = s.muxLvl ∧ t.dataLvl = s.dataLvl ∧ t.panelSr = s.panelSr ∧ t.panelLr = s.panelLr)

/-- R9: no turn changes the implementation parameters, and the base address of the host window is read by no rule
(R112): two machines that differ in it only stay so. No turn but the host's takes from the host's program, and none adds
to it (the model's queue and schedule, which the reset input keeps: log entries 5 and 14). -/
def Obligations.ParametersNeverChange : Prop :=
  ∀ (τ : Turn) (s t : State), takeTurn τ s = .next t →
    t.par = s.par ∧ t.turns = s.turns ∧ t.turn = s.turn
      ∧ (t.hostq = s.hostq ∨ (τ = .agent .host ∧ t.hostq = s.hostq.tail))
      ∧ ∀ b, takeTurn τ { s with par := { s.par with dmdseBase := b } }
          = .next { t with par := { t.par with dmdseBase := b } }

/-- U14, R102: while the block runs, the buffer bytes at and above `SIZE` affect nothing but what the host reads back:
two states that agree but for them still do after any turn, with the same trace. -/
def Obligations.UnscannedBytesAreNeverShown : Prop :=
  ∀ (τ : Turn) (s₁ s₂ t₁ t₂ : State), Invariant s₁ → s₁.run = true → Memory.wf s₂.store = true → AgreeOnFrame s₁ s₂ →
    takeTurn τ s₁ = .next t₁ → takeTurn τ s₂ = .next t₂ → t₁.run = true → AgreeOnFrame t₁ t₂

/-! ### Invariants -/

/-- R530: what power-on and the platform's reset input leave, field by field, whatever the parameters, and the OE pin
with it (R532). The panel's registers are unspecified and not named. -/
def Obligations.ResetValues : Prop :=
  (∀ u : State, ∃ t, takeTurn .reset u = .next t)
    ∧ ∀ s : State, (s = Sys2Proof.core.reset ∨ ∃ u, takeTurn .reset u = .next s) →
      s.run = false ∧ s.db = true ∧ s.front = 0 ∧ s.bright = 0xFF#8 ∧ s.scanUs = 2000#32
        ∧ s.div = 0 ∧ s.period = 0 ∧ s.achUs = 0#32 ∧ s.reloadPending = false
        ∧ s.pw = 32#8 ∧ s.ph = 16#8 ∧ s.nx = 2#4 ∧ s.ny = 1#4 ∧ s.nrows = 16#6 ∧ s.muxcnt = 16#6
        ∧ s.selLvl = false ∧ s.dataInv = false ∧ s.oeLow = false ∧ s.cfgerr = false ∧ s.berr = false
        ∧ (∀ i, i ≤ 32 → s.muxset[i]? = some 0#32 ∧ s.muxclr[i]? = some 0#32)
        ∧ s.tickcnt = 0#32 ∧ s.framecnt = 0#32 ∧ s.onCnt = 0 ∧ s.row = 0 ∧ s.phase = 0 ∧ s.busy = false
        ∧ s.nm = 0 ∧ s.cnt = 0 ∧ s.oeArmed = false ∧ (∀ k i, bufRead k i s = 0x00#8)
        ∧ s.swapReq = false ∧ s.copyReq = false ∧ s.copyBusy = false ∧ s.copyIdx = 0
        ∧ s.shRem = 0 ∧ s.shSrc = 0 ∧ s.shSlot = 0 ∧ s.muxPend = none
        ∧ s.muxLvl = 0#32 ∧ s.dataLvl = false ∧ s.clkLvl = false ∧ s.latLvl = false ∧ s.trace = []
        ∧ oePin s = false

/-- The invariants hold at reset, whatever the parameters. -/
def Obligations.ResetHasInvariant : Prop :=
  Invariant State.reset ∧ SelectsRow State.reset

/-- R78: the invariants of R78, clause by clause: reset has them, and every step keeps them from every state that has
them. -/
def Obligations.StepKeepsSpecInvariant : Prop :=
  SpecInvariant State.reset ∧ ∀ s t : State, SpecInvariant s → step s = .next t → SpecInvariant t

/-- R38, R46, R47, R50, R51, R53, R56 to R59: the ranges of 10_state.md and the canonical form of the buffer store are
kept by every step. -/
def Obligations.StepKeepsRanges : Prop :=
  ∀ s t : State, Invariant s → step s = .next t → InRange t

/-- R250, R255, R76, R343, R390, R435: while running the table stays the generated one, the unused mux lines 0, the
panel's registers of the chain's length, and the PIO agents where the sequencer left them, at every step. -/
def Obligations.StepKeepsCoherence : Prop :=
  ∀ s t : State, Invariant s → step s = .next t → Coherent t

/-- R442, R454: whenever the mux lines carry a row for the panel they select exactly that row: the burst's from the mux
drive on and, with the light window open, the row before `s.row`. Every step keeps this. -/
def Obligations.StepKeepsSelectedRow : Prop :=
  ∀ s t : State, Invariant s → SelectsRow s → step s = .next t → SelectsRow t

/-! ### The image and the host's programs -/

/-- R453, R454: no pixel is lit while stopped or during a burst, and between bursts only pixels of the one selected row
are. While running a pixel of a panel is lit exactly when OE is active, its line is of the row before `s.row`, and the
latched level at its place in the chain (R300), XOR `DATA_INV`, is 1. In every valid configuration that place of the
levels shifted for the row of its line, from either slot, is the pixel's bit of that slot XOR `DATA_INV` (R110, R454). -/
def Obligations.OnlySelectedRowIsLit : Prop :=
  ∀ (s : State) (p x y : Nat),
    let place := (p * (s.ph.toNat / s.nrows.toNat) + y / s.nrows.toNat) * s.pw.toNat + x
    (s.run = false ∨ s.busy = true → lit s p x y = false)
      ∧ (Invariant s → SelectsRow s → lit s p x y = true →
          y % s.nrows.toNat = (s.row + s.nrows.toNat - 1) % s.nrows.toNat)
      ∧ (Invariant s → SelectsRow s → s.run = true → p < numPanels s → x < s.pw.toNat → y < s.ph.toNat →
          ∃ level, s.panelLr[place]? = some level
            ∧ (lit s p x y = true ↔
                oeActive s = true ∧ y % s.nrows.toNat = (s.row + s.nrows.toNat - 1) % s.nrows.toNat
                  ∧ (level ^^ s.dataInv) = true))
      ∧ (cfgValid s = true → p < numPanels s → x < s.pw.toNat → y < s.ph.toNat → ∀ k : Fin 2,
          (rowLevels k (y % s.nrows.toNat * rowBytes s) (rowBytes s) s)[place]?
            = some ((bufRead k (pixAddrPanel s p x y).byte s).getLsbD (pixAddrPanel s p x y).bit ^^ s.dataInv))

/-- R303: in every valid configuration the reference mapping is a bijection from the display's pixels onto the bits of
the bytes 0 to `SIZE - 1`. -/
def Obligations.PixelMappingIsBijective : Prop :=
  ∀ s : State, cfgValid s = true →
    (∀ x y, onDisplay s x y = true → (pixAddr s x y).byte < frameBytes s ∧ (pixAddr s x y).bit < 8)
      ∧ (∀ x y x' y', onDisplay s x y = true → onDisplay s x' y' = true → pixAddr s x y = pixAddr s x' y' →
          x = x' ∧ y = y')
      ∧ ∀ o b, o < frameBytes s → b < 8 → ∃ x y, onDisplay s x y = true ∧ pixAddr s x y = { byte := o, bit := b }

/-- R173, R302: `setpix`, run between bursts, sets the pixel's bit of the back slot to its colour and changes no other
bit of either slot; out of range it issues nothing. The run of a script is the model's (log entry 20). -/
def Obligations.SetpixWritesOneBit : Prop :=
  ∀ (s : State) (x y : Nat) (c : Bool) (env : Bindings), Memory.wf s.store = true → s.busy = false → cfgValid s = true →
    let prog := setpixLines s x y c
    let t := (runScript prog 2 { rest := prog, env := env, block := s }).block
    (onDisplay s x y = false → t = s)
      ∧ (onDisplay s x y = true →
          (bufRead (bslot s) (pixAddr s x y).byte t).getLsbD (pixAddr s x y).bit = c
            ∧ ∀ k i b, ¬(k = bslot s ∧ i = (pixAddr s x y).byte ∧ b = (pixAddr s x y).bit) →
                (bufRead k i t).getLsbD b = (bufRead k i s).getLsbD b)

/-- R171: the pseudo-instructions expand to the transactions of their source operations. Scripts as data are the model's
(log entry 20). -/
def Obligations.PseudoInstructionsExpand : Prop :=
  ∀ (b : Word) (loop : String),
    let first := fun p => ((expandPseudo p).filterMap (lineTransaction [])).map decode
    first .start = [.ok (.wrCtrl 3#32)] ∧ first .start1 = [.ok (.wrCtrl 1#32)] ∧ first .stop = [.ok (.wrCtrl 2#32)]
      ∧ first (.setbright b) = [.ok (.wrBright b)] ∧ first (.setscan b) = [.ok (.wrScanUs b)]
      ∧ first (.swap loop) = [.ok (.wrSwap 1#32), .ok .rdStatus]
      ∧ first (.swapcopy loop) = [.ok (.wrSwap 3#32), .ok .rdStatus]
      ∧ first .clrerr = [.ok (.wrStatus 0xC0#32)] ∧ first (.waitswap loop) = [.ok .rdStatus]

/-! ### Progress -/

/-- R343, R351: in every weakly fair run with no reset, every burst ends. Fairness is a premise (log entry 4). -/
def Obligations.EveryBurstEnds : Prop :=
  ∀ (sched : Nat → Turn) (s : State), Invariant s → NoReset sched → WeaklyFair sched s → s.busy = true →
    ∃ n, (runOf sched s n).busy = false

/-- R389, R172: in every weakly fair run with no reset the swap arbiter becomes idle again: a pending swap is exchanged,
at a frame boundary or at a stop, and its copy ends. Fairness is a premise (log entry 4). -/
def Obligations.SwapArbiterBecomesIdle : Prop :=
  ∀ (sched : Nat → Turn) (s : State), Invariant s → NoReset sched → WeaklyFair sched s →
    ∃ n, arbiterIdle (runOf sched s n) = true

end
end

