-- ==== Sys2Proof/Laws/Encoding.lean ====
section
/-! SUPPORT. The four fields of a transaction: `assemble` and the field selectors are inverse to each other. -/

namespace Sys2Proof

@[simp] theorem sizeField_assemble (sz : BitVec 2) (wr : Bool) (off : BitVec 15) (data : Word) :
    sizeField (assemble sz wr off data) = sz := by
  ext k hk
  simp only [sizeField, assemble, BitVec.getElem_extractLsb', BitVec.getLsbD_append]
  rw [if_neg (by omega), if_neg (by omega), if_neg (by omega), ← BitVec.getLsbD_eq_getElem]
  congr 1
  omega

@[simp] theorem isWrite_assemble (sz : BitVec 2) (wr : Bool) (off : BitVec 15) (data : Word) :
    isWrite (assemble sz wr off data) = wr := by
  simp only [isWrite, assemble, BitVec.getLsbD_append]
  simp

@[simp] theorem offField_assemble (sz : BitVec 2) (wr : Bool) (off : BitVec 15) (data : Word) :
    offField (assemble sz wr off data) = off := by
  ext k hk
  simp only [offField, assemble, BitVec.getElem_extractLsb', BitVec.getLsbD_append]
  rw [if_neg (by omega), if_pos (by omega), ← BitVec.getLsbD_eq_getElem]
  congr 1
  omega

@[simp] theorem dataField_assemble (sz : BitVec 2) (wr : Bool) (off : BitVec 15) (data : Word) :
    dataField (assemble sz wr off data) = data := by
  ext k hk
  simp only [dataField, assemble, BitVec.getElem_extractLsb', BitVec.getLsbD_append]
  rw [if_pos (by omega), ← BitVec.getLsbD_eq_getElem]
  congr 1
  omega

/-- A transaction is its four fields. -/
theorem assemble_fields (t : Transaction) : assemble (sizeField t) (isWrite t) (offField t) (dataField t) = t := by
  ext k hk
  simp only [assemble, sizeField, isWrite, offField, dataField, ← BitVec.getLsbD_eq_getElem, BitVec.getLsbD_append]
  split
  · simp [*]
  · split
    · next h1 h2 => simp only [BitVec.getLsbD_extractLsb', h2]; simp; congr 1; omega
    · split
      · next h1 h2 h3 =>
        have hk : k = 47 := by omega
        subst hk
        simp
      · next h1 h2 h3 =>
        have h4 : k - 32 - 15 - 1 < 2 := by omega
        simp only [BitVec.getLsbD_extractLsb', h4]; simp; congr 1; omega

/-- Two transactions with the same four fields are the same. -/
theorem transaction_ext {t u : Transaction} (h1 : sizeField t = sizeField u) (h2 : isWrite t = isWrite u)
    (h3 : offField t = offField u) (h4 : dataField t = dataField u) : t = u := by
  rw [← assemble_fields t, ← assemble_fields u, h1, h2, h3, h4]

/-- Decoding in terms of the four fields. -/
theorem decode_assemble (sz : BitVec 2) (wr : Bool) (off : BitVec 15) (data : Word) :
    decode (assemble sz wr off data) =
      if sz = 3#2 then .error .reservedSize
      else if off.extractLsb' 12 3 = 0#3 then
        if sz = 2#2 then decodeReg wr off data else .error .registerNotWord
      else if off.extractLsb' 12 3 = 1#3 then decodeBack sz wr (off.extractLsb' 0 12) data
      else if off.extractLsb' 12 3 = 2#3 then decodeFront sz wr (off.extractLsb' 0 12)
      else .error .unlistedOffset := by
  simp only [decode, sizeField_assemble, isWrite_assemble, offField_assemble, dataField_assemble]

end Sys2Proof
end

