-- ==== Sys2Proof/Laws/State.lean ====
section
/-! SUPPORT. For each named update of the state record and each field it leaves unchanged, the lemma that says so; and the
values of the fields it changes. A later proof need not unfold a record update. -/

namespace Sys2Proof.Machine

/-! ### respond -/

@[simp] theorem respond_run (v : Word) (s : State) : (respond v s).run = s.run := rfl
@[simp] theorem respond_db (v : Word) (s : State) : (respond v s).db = s.db := rfl
@[simp] theorem respond_front (v : Word) (s : State) : (respond v s).front = s.front := rfl
@[simp] theorem respond_bright (v : Word) (s : State) : (respond v s).bright = s.bright := rfl
@[simp] theorem respond_scanUs (v : Word) (s : State) : (respond v s).scanUs = s.scanUs := rfl
@[simp] theorem respond_div (v : Word) (s : State) : (respond v s).div = s.div := rfl
@[simp] theorem respond_period (v : Word) (s : State) : (respond v s).period = s.period := rfl
@[simp] theorem respond_achUs (v : Word) (s : State) : (respond v s).achUs = s.achUs := rfl
@[simp] theorem respond_reloadPending (v : Word) (s : State) : (respond v s).reloadPending = s.reloadPending := rfl
@[simp] theorem respond_pw (v : Word) (s : State) : (respond v s).pw = s.pw := rfl
@[simp] theorem respond_ph (v : Word) (s : State) : (respond v s).ph = s.ph := rfl
@[simp] theorem respond_nx (v : Word) (s : State) : (respond v s).nx = s.nx := rfl
@[simp] theorem respond_ny (v : Word) (s : State) : (respond v s).ny = s.ny := rfl
@[simp] theorem respond_nrows (v : Word) (s : State) : (respond v s).nrows = s.nrows := rfl
@[simp] theorem respond_muxcnt (v : Word) (s : State) : (respond v s).muxcnt = s.muxcnt := rfl
@[simp] theorem respond_selLvl (v : Word) (s : State) : (respond v s).selLvl = s.selLvl := rfl
@[simp] theorem respond_dataInv (v : Word) (s : State) : (respond v s).dataInv = s.dataInv := rfl
@[simp] theorem respond_oeLow (v : Word) (s : State) : (respond v s).oeLow = s.oeLow := rfl
@[simp] theorem respond_cfgerr (v : Word) (s : State) : (respond v s).cfgerr = s.cfgerr := rfl
@[simp] theorem respond_berr (v : Word) (s : State) : (respond v s).berr = s.berr := rfl
@[simp] theorem respond_muxset (v : Word) (s : State) : (respond v s).muxset = s.muxset := rfl
@[simp] theorem respond_muxclr (v : Word) (s : State) : (respond v s).muxclr = s.muxclr := rfl
@[simp] theorem respond_tickcnt (v : Word) (s : State) : (respond v s).tickcnt = s.tickcnt := rfl
@[simp] theorem respond_framecnt (v : Word) (s : State) : (respond v s).framecnt = s.framecnt := rfl
@[simp] theorem respond_onCnt (v : Word) (s : State) : (respond v s).onCnt = s.onCnt := rfl
@[simp] theorem respond_row (v : Word) (s : State) : (respond v s).row = s.row := rfl
@[simp] theorem respond_phase (v : Word) (s : State) : (respond v s).phase = s.phase := rfl
@[simp] theorem respond_busy (v : Word) (s : State) : (respond v s).busy = s.busy := rfl
@[simp] theorem respond_nm (v : Word) (s : State) : (respond v s).nm = s.nm := rfl
@[simp] theorem respond_cnt (v : Word) (s : State) : (respond v s).cnt = s.cnt := rfl
@[simp] theorem respond_oeArmed (v : Word) (s : State) : (respond v s).oeArmed = s.oeArmed := rfl
@[simp] theorem respond_store (v : Word) (s : State) : (respond v s).store = s.store := rfl
@[simp] theorem respond_swapReq (v : Word) (s : State) : (respond v s).swapReq = s.swapReq := rfl
@[simp] theorem respond_copyReq (v : Word) (s : State) : (respond v s).copyReq = s.copyReq := rfl
@[simp] theorem respond_copyBusy (v : Word) (s : State) : (respond v s).copyBusy = s.copyBusy := rfl
@[simp] theorem respond_copyIdx (v : Word) (s : State) : (respond v s).copyIdx = s.copyIdx := rfl
@[simp] theorem respond_shRem (v : Word) (s : State) : (respond v s).shRem = s.shRem := rfl
@[simp] theorem respond_shSrc (v : Word) (s : State) : (respond v s).shSrc = s.shSrc := rfl
@[simp] theorem respond_shSlot (v : Word) (s : State) : (respond v s).shSlot = s.shSlot := rfl
@[simp] theorem respond_muxPend (v : Word) (s : State) : (respond v s).muxPend = s.muxPend := rfl
@[simp] theorem respond_muxLvl (v : Word) (s : State) : (respond v s).muxLvl = s.muxLvl := rfl
@[simp] theorem respond_dataLvl (v : Word) (s : State) : (respond v s).dataLvl = s.dataLvl := rfl
@[simp] theorem respond_clkLvl (v : Word) (s : State) : (respond v s).clkLvl = s.clkLvl := rfl
@[simp] theorem respond_latLvl (v : Word) (s : State) : (respond v s).latLvl = s.latLvl := rfl
@[simp] theorem respond_trace (v : Word) (s : State) : (respond v s).trace = s.trace := rfl
@[simp] theorem respond_panelSr (v : Word) (s : State) : (respond v s).panelSr = s.panelSr := rfl
@[simp] theorem respond_panelLr (v : Word) (s : State) : (respond v s).panelLr = s.panelLr := rfl
@[simp] theorem respond_par (v : Word) (s : State) : (respond v s).par = s.par := rfl
@[simp] theorem respond_hostq (v : Word) (s : State) : (respond v s).hostq = s.hostq := rfl
@[simp] theorem respond_turns (v : Word) (s : State) : (respond v s).turns = s.turns := rfl
@[simp] theorem respond_turn (v : Word) (s : State) : (respond v s).turn = s.turn := rfl
@[simp] theorem respond_draws (v : Word) (s : State) : (respond v s).draws = s.draws := rfl

/-! ### acknowledge -/

@[simp] theorem acknowledge_run (s : State) : (acknowledge s).run = s.run := rfl
@[simp] theorem acknowledge_db (s : State) : (acknowledge s).db = s.db := rfl
@[simp] theorem acknowledge_front (s : State) : (acknowledge s).front = s.front := rfl
@[simp] theorem acknowledge_bright (s : State) : (acknowledge s).bright = s.bright := rfl
@[simp] theorem acknowledge_scanUs (s : State) : (acknowledge s).scanUs = s.scanUs := rfl
@[simp] theorem acknowledge_div (s : State) : (acknowledge s).div = s.div := rfl
@[simp] theorem acknowledge_period (s : State) : (acknowledge s).period = s.period := rfl
@[simp] theorem acknowledge_achUs (s : State) : (acknowledge s).achUs = s.achUs := rfl
@[simp] theorem acknowledge_reloadPending (s : State) : (acknowledge s).reloadPending = s.reloadPending := rfl
@[simp] theorem acknowledge_pw (s : State) : (acknowledge s).pw = s.pw := rfl
@[simp] theorem acknowledge_ph (s : State) : (acknowledge s).ph = s.ph := rfl
@[simp] theorem acknowledge_nx (s : State) : (acknowledge s).nx = s.nx := rfl
@[simp] theorem acknowledge_ny (s : State) : (acknowledge s).ny = s.ny := rfl
@[simp] theorem acknowledge_nrows (s : State) : (acknowledge s).nrows = s.nrows := rfl
@[simp] theorem acknowledge_muxcnt (s : State) : (acknowledge s).muxcnt = s.muxcnt := rfl
@[simp] theorem acknowledge_selLvl (s : State) : (acknowledge s).selLvl = s.selLvl := rfl
@[simp] theorem acknowledge_dataInv (s : State) : (acknowledge s).dataInv = s.dataInv := rfl
@[simp] theorem acknowledge_oeLow (s : State) : (acknowledge s).oeLow = s.oeLow := rfl
@[simp] theorem acknowledge_cfgerr (s : State) : (acknowledge s).cfgerr = s.cfgerr := rfl
@[simp] theorem acknowledge_berr (s : State) : (acknowledge s).berr = s.berr := rfl
@[simp] theorem acknowledge_muxset (s : State) : (acknowledge s).muxset = s.muxset := rfl
@[simp] theorem acknowledge_muxclr (s : State) : (acknowledge s).muxclr = s.muxclr := rfl
@[simp] theorem acknowledge_tickcnt (s : State) : (acknowledge s).tickcnt = s.tickcnt := rfl
@[simp] theorem acknowledge_framecnt (s : State) : (acknowledge s).framecnt = s.framecnt := rfl
@[simp] theorem acknowledge_onCnt (s : State) : (acknowledge s).onCnt = s.onCnt := rfl
@[simp] theorem acknowledge_row (s : State) : (acknowledge s).row = s.row := rfl
@[simp] theorem acknowledge_phase (s : State) : (acknowledge s).phase = s.phase := rfl
@[simp] theorem acknowledge_busy (s : State) : (acknowledge s).busy = s.busy := rfl
@[simp] theorem acknowledge_nm (s : State) : (acknowledge s).nm = s.nm := rfl
@[simp] theorem acknowledge_cnt (s : State) : (acknowledge s).cnt = s.cnt := rfl
@[simp] theorem acknowledge_oeArmed (s : State) : (acknowledge s).oeArmed = s.oeArmed := rfl
@[simp] theorem acknowledge_store (s : State) : (acknowledge s).store = s.store := rfl
@[simp] theorem acknowledge_swapReq (s : State) : (acknowledge s).swapReq = s.swapReq := rfl
@[simp] theorem acknowledge_copyReq (s : State) : (acknowledge s).copyReq = s.copyReq := rfl
@[simp] theorem acknowledge_copyBusy (s : State) : (acknowledge s).copyBusy = s.copyBusy := rfl
@[simp] theorem acknowledge_copyIdx (s : State) : (acknowledge s).copyIdx = s.copyIdx := rfl
@[simp] theorem acknowledge_shRem (s : State) : (acknowledge s).shRem = s.shRem := rfl
@[simp] theorem acknowledge_shSrc (s : State) : (acknowledge s).shSrc = s.shSrc := rfl
@[simp] theorem acknowledge_shSlot (s : State) : (acknowledge s).shSlot = s.shSlot := rfl
@[simp] theorem acknowledge_muxPend (s : State) : (acknowledge s).muxPend = s.muxPend := rfl
@[simp] theorem acknowledge_muxLvl (s : State) : (acknowledge s).muxLvl = s.muxLvl := rfl
@[simp] theorem acknowledge_dataLvl (s : State) : (acknowledge s).dataLvl = s.dataLvl := rfl
@[simp] theorem acknowledge_clkLvl (s : State) : (acknowledge s).clkLvl = s.clkLvl := rfl
@[simp] theorem acknowledge_latLvl (s : State) : (acknowledge s).latLvl = s.latLvl := rfl
@[simp] theorem acknowledge_trace (s : State) : (acknowledge s).trace = s.trace := rfl
@[simp] theorem acknowledge_panelSr (s : State) : (acknowledge s).panelSr = s.panelSr := rfl
@[simp] theorem acknowledge_panelLr (s : State) : (acknowledge s).panelLr = s.panelLr := rfl
@[simp] theorem acknowledge_par (s : State) : (acknowledge s).par = s.par := rfl
@[simp] theorem acknowledge_hostq (s : State) : (acknowledge s).hostq = s.hostq := rfl
@[simp] theorem acknowledge_turns (s : State) : (acknowledge s).turns = s.turns := rfl
@[simp] theorem acknowledge_turn (s : State) : (acknowledge s).turn = s.turn := rfl
@[simp] theorem acknowledge_draws (s : State) : (acknowledge s).draws = s.draws := rfl

/-! ### raiseBusError -/

@[simp] theorem raiseBusError_run (s : State) : (raiseBusError s).run = s.run := rfl
@[simp] theorem raiseBusError_db (s : State) : (raiseBusError s).db = s.db := rfl
@[simp] theorem raiseBusError_front (s : State) : (raiseBusError s).front = s.front := rfl
@[simp] theorem raiseBusError_bright (s : State) : (raiseBusError s).bright = s.bright := rfl
@[simp] theorem raiseBusError_scanUs (s : State) : (raiseBusError s).scanUs = s.scanUs := rfl
@[simp] theorem raiseBusError_div (s : State) : (raiseBusError s).div = s.div := rfl
@[simp] theorem raiseBusError_period (s : State) : (raiseBusError s).period = s.period := rfl
@[simp] theorem raiseBusError_achUs (s : State) : (raiseBusError s).achUs = s.achUs := rfl
@[simp] theorem raiseBusError_reloadPending (s : State) : (raiseBusError s).reloadPending = s.reloadPending := rfl
@[simp] theorem raiseBusError_pw (s : State) : (raiseBusError s).pw = s.pw := rfl
@[simp] theorem raiseBusError_ph (s : State) : (raiseBusError s).ph = s.ph := rfl
@[simp] theorem raiseBusError_nx (s : State) : (raiseBusError s).nx = s.nx := rfl
@[simp] theorem raiseBusError_ny (s : State) : (raiseBusError s).ny = s.ny := rfl
@[simp] theorem raiseBusError_nrows (s : State) : (raiseBusError s).nrows = s.nrows := rfl
@[simp] theorem raiseBusError_muxcnt (s : State) : (raiseBusError s).muxcnt = s.muxcnt := rfl
@[simp] theorem raiseBusError_selLvl (s : State) : (raiseBusError s).selLvl = s.selLvl := rfl
@[simp] theorem raiseBusError_dataInv (s : State) : (raiseBusError s).dataInv = s.dataInv := rfl
@[simp] theorem raiseBusError_oeLow (s : State) : (raiseBusError s).oeLow = s.oeLow := rfl
@[simp] theorem raiseBusError_cfgerr (s : State) : (raiseBusError s).cfgerr = s.cfgerr := rfl
@[simp] theorem raiseBusError_muxset (s : State) : (raiseBusError s).muxset = s.muxset := rfl
@[simp] theorem raiseBusError_muxclr (s : State) : (raiseBusError s).muxclr = s.muxclr := rfl
@[simp] theorem raiseBusError_tickcnt (s : State) : (raiseBusError s).tickcnt = s.tickcnt := rfl
@[simp] theorem raiseBusError_framecnt (s : State) : (raiseBusError s).framecnt = s.framecnt := rfl
@[simp] theorem raiseBusError_onCnt (s : State) : (raiseBusError s).onCnt = s.onCnt := rfl
@[simp] theorem raiseBusError_row (s : State) : (raiseBusError s).row = s.row := rfl
@[simp] theorem raiseBusError_phase (s : State) : (raiseBusError s).phase = s.phase := rfl
@[simp] theorem raiseBusError_busy (s : State) : (raiseBusError s).busy = s.busy := rfl
@[simp] theorem raiseBusError_nm (s : State) : (raiseBusError s).nm = s.nm := rfl
@[simp] theorem raiseBusError_cnt (s : State) : (raiseBusError s).cnt = s.cnt := rfl
@[simp] theorem raiseBusError_oeArmed (s : State) : (raiseBusError s).oeArmed = s.oeArmed := rfl
@[simp] theorem raiseBusError_store (s : State) : (raiseBusError s).store = s.store := rfl
@[simp] theorem raiseBusError_swapReq (s : State) : (raiseBusError s).swapReq = s.swapReq := rfl
@[simp] theorem raiseBusError_copyReq (s : State) : (raiseBusError s).copyReq = s.copyReq := rfl
@[simp] theorem raiseBusError_copyBusy (s : State) : (raiseBusError s).copyBusy = s.copyBusy := rfl
@[simp] theorem raiseBusError_copyIdx (s : State) : (raiseBusError s).copyIdx = s.copyIdx := rfl
@[simp] theorem raiseBusError_shRem (s : State) : (raiseBusError s).shRem = s.shRem := rfl
@[simp] theorem raiseBusError_shSrc (s : State) : (raiseBusError s).shSrc = s.shSrc := rfl
@[simp] theorem raiseBusError_shSlot (s : State) : (raiseBusError s).shSlot = s.shSlot := rfl
@[simp] theorem raiseBusError_muxPend (s : State) : (raiseBusError s).muxPend = s.muxPend := rfl
@[simp] theorem raiseBusError_muxLvl (s : State) : (raiseBusError s).muxLvl = s.muxLvl := rfl
@[simp] theorem raiseBusError_dataLvl (s : State) : (raiseBusError s).dataLvl = s.dataLvl := rfl
@[simp] theorem raiseBusError_clkLvl (s : State) : (raiseBusError s).clkLvl = s.clkLvl := rfl
@[simp] theorem raiseBusError_latLvl (s : State) : (raiseBusError s).latLvl = s.latLvl := rfl
@[simp] theorem raiseBusError_trace (s : State) : (raiseBusError s).trace = s.trace := rfl
@[simp] theorem raiseBusError_panelSr (s : State) : (raiseBusError s).panelSr = s.panelSr := rfl
@[simp] theorem raiseBusError_panelLr (s : State) : (raiseBusError s).panelLr = s.panelLr := rfl
@[simp] theorem raiseBusError_par (s : State) : (raiseBusError s).par = s.par := rfl
@[simp] theorem raiseBusError_hostq (s : State) : (raiseBusError s).hostq = s.hostq := rfl
@[simp] theorem raiseBusError_rdata (s : State) : (raiseBusError s).rdata = s.rdata := rfl
@[simp] theorem raiseBusError_turns (s : State) : (raiseBusError s).turns = s.turns := rfl
@[simp] theorem raiseBusError_turn (s : State) : (raiseBusError s).turn = s.turn := rfl
@[simp] theorem raiseBusError_draws (s : State) : (raiseBusError s).draws = s.draws := rfl

/-! ### raiseConfigError -/

@[simp] theorem raiseConfigError_run (s : State) : (raiseConfigError s).run = s.run := rfl
@[simp] theorem raiseConfigError_db (s : State) : (raiseConfigError s).db = s.db := rfl
@[simp] theorem raiseConfigError_front (s : State) : (raiseConfigError s).front = s.front := rfl
@[simp] theorem raiseConfigError_bright (s : State) : (raiseConfigError s).bright = s.bright := rfl
@[simp] theorem raiseConfigError_scanUs (s : State) : (raiseConfigError s).scanUs = s.scanUs := rfl
@[simp] theorem raiseConfigError_div (s : State) : (raiseConfigError s).div = s.div := rfl
@[simp] theorem raiseConfigError_period (s : State) : (raiseConfigError s).period = s.period := rfl
@[simp] theorem raiseConfigError_achUs (s : State) : (raiseConfigError s).achUs = s.achUs := rfl
@[simp] theorem raiseConfigError_reloadPending (s : State) : (raiseConfigError s).reloadPending = s.reloadPending := rfl
@[simp] theorem raiseConfigError_pw (s : State) : (raiseConfigError s).pw = s.pw := rfl
@[simp] theorem raiseConfigError_ph (s : State) : (raiseConfigError s).ph = s.ph := rfl
@[simp] theorem raiseConfigError_nx (s : State) : (raiseConfigError s).nx = s.nx := rfl
@[simp] theorem raiseConfigError_ny (s : State) : (raiseConfigError s).ny = s.ny := rfl
@[simp] theorem raiseConfigError_nrows (s : State) : (raiseConfigError s).nrows = s.nrows := rfl
@[simp] theorem raiseConfigError_muxcnt (s : State) : (raiseConfigError s).muxcnt = s.muxcnt := rfl
@[simp] theorem raiseConfigError_selLvl (s : State) : (raiseConfigError s).selLvl = s.selLvl := rfl
@[simp] theorem raiseConfigError_dataInv (s : State) : (raiseConfigError s).dataInv = s.dataInv := rfl
@[simp] theorem raiseConfigError_oeLow (s : State) : (raiseConfigError s).oeLow = s.oeLow := rfl
@[simp] theorem raiseConfigError_berr (s : State) : (raiseConfigError s).berr = s.berr := rfl
@[simp] theorem raiseConfigError_muxset (s : State) : (raiseConfigError s).muxset = s.muxset := rfl
@[simp] theorem raiseConfigError_muxclr (s : State) : (raiseConfigError s).muxclr = s.muxclr := rfl
@[simp] theorem raiseConfigError_tickcnt (s : State) : (raiseConfigError s).tickcnt = s.tickcnt := rfl
@[simp] theorem raiseConfigError_framecnt (s : State) : (raiseConfigError s).framecnt = s.framecnt := rfl
@[simp] theorem raiseConfigError_onCnt (s : State) : (raiseConfigError s).onCnt = s.onCnt := rfl
@[simp] theorem raiseConfigError_row (s : State) : (raiseConfigError s).row = s.row := rfl
@[simp] theorem raiseConfigError_phase (s : State) : (raiseConfigError s).phase = s.phase := rfl
@[simp] theorem raiseConfigError_busy (s : State) : (raiseConfigError s).busy = s.busy := rfl
@[simp] theorem raiseConfigError_nm (s : State) : (raiseConfigError s).nm = s.nm := rfl
@[simp] theorem raiseConfigError_cnt (s : State) : (raiseConfigError s).cnt = s.cnt := rfl
@[simp] theorem raiseConfigError_oeArmed (s : State) : (raiseConfigError s).oeArmed = s.oeArmed := rfl
@[simp] theorem raiseConfigError_store (s : State) : (raiseConfigError s).store = s.store := rfl
@[simp] theorem raiseConfigError_swapReq (s : State) : (raiseConfigError s).swapReq = s.swapReq := rfl
@[simp] theorem raiseConfigError_copyReq (s : State) : (raiseConfigError s).copyReq = s.copyReq := rfl
@[simp] theorem raiseConfigError_copyBusy (s : State) : (raiseConfigError s).copyBusy = s.copyBusy := rfl
@[simp] theorem raiseConfigError_copyIdx (s : State) : (raiseConfigError s).copyIdx = s.copyIdx := rfl
@[simp] theorem raiseConfigError_shRem (s : State) : (raiseConfigError s).shRem = s.shRem := rfl
@[simp] theorem raiseConfigError_shSrc (s : State) : (raiseConfigError s).shSrc = s.shSrc := rfl
@[simp] theorem raiseConfigError_shSlot (s : State) : (raiseConfigError s).shSlot = s.shSlot := rfl
@[simp] theorem raiseConfigError_muxPend (s : State) : (raiseConfigError s).muxPend = s.muxPend := rfl
@[simp] theorem raiseConfigError_muxLvl (s : State) : (raiseConfigError s).muxLvl = s.muxLvl := rfl
@[simp] theorem raiseConfigError_dataLvl (s : State) : (raiseConfigError s).dataLvl = s.dataLvl := rfl
@[simp] theorem raiseConfigError_clkLvl (s : State) : (raiseConfigError s).clkLvl = s.clkLvl := rfl
@[simp] theorem raiseConfigError_latLvl (s : State) : (raiseConfigError s).latLvl = s.latLvl := rfl
@[simp] theorem raiseConfigError_trace (s : State) : (raiseConfigError s).trace = s.trace := rfl
@[simp] theorem raiseConfigError_panelSr (s : State) : (raiseConfigError s).panelSr = s.panelSr := rfl
@[simp] theorem raiseConfigError_panelLr (s : State) : (raiseConfigError s).panelLr = s.panelLr := rfl
@[simp] theorem raiseConfigError_par (s : State) : (raiseConfigError s).par = s.par := rfl
@[simp] theorem raiseConfigError_hostq (s : State) : (raiseConfigError s).hostq = s.hostq := rfl
@[simp] theorem raiseConfigError_rdata (s : State) : (raiseConfigError s).rdata = s.rdata := rfl
@[simp] theorem raiseConfigError_turns (s : State) : (raiseConfigError s).turns = s.turns := rfl
@[simp] theorem raiseConfigError_turn (s : State) : (raiseConfigError s).turn = s.turn := rfl
@[simp] theorem raiseConfigError_draws (s : State) : (raiseConfigError s).draws = s.draws := rfl

/-! ### refuseTransaction -/

@[simp] theorem refuseTransaction_run (wr : Bool) (s : State) : (refuseTransaction wr s).run = s.run := by cases wr <;> rfl
@[simp] theorem refuseTransaction_db (wr : Bool) (s : State) : (refuseTransaction wr s).db = s.db := by cases wr <;> rfl
@[simp] theorem refuseTransaction_front (wr : Bool) (s : State) : (refuseTransaction wr s).front = s.front := by cases wr <;> rfl
@[simp] theorem refuseTransaction_bright (wr : Bool) (s : State) : (refuseTransaction wr s).bright = s.bright := by cases wr <;> rfl
@[simp] theorem refuseTransaction_scanUs (wr : Bool) (s : State) : (refuseTransaction wr s).scanUs = s.scanUs := by cases wr <;> rfl
@[simp] theorem refuseTransaction_div (wr : Bool) (s : State) : (refuseTransaction wr s).div = s.div := by cases wr <;> rfl
@[simp] theorem refuseTransaction_period (wr : Bool) (s : State) : (refuseTransaction wr s).period = s.period := by cases wr <;> rfl
@[simp] theorem refuseTransaction_achUs (wr : Bool) (s : State) : (refuseTransaction wr s).achUs = s.achUs := by cases wr <;> rfl
@[simp] theorem refuseTransaction_reloadPending (wr : Bool) (s : State) : (refuseTransaction wr s).reloadPending = s.reloadPending := by cases wr <;> rfl
@[simp] theorem refuseTransaction_pw (wr : Bool) (s : State) : (refuseTransaction wr s).pw = s.pw := by cases wr <;> rfl
@[simp] theorem refuseTransaction_ph (wr : Bool) (s : State) : (refuseTransaction wr s).ph = s.ph := by cases wr <;> rfl
@[simp] theorem refuseTransaction_nx (wr : Bool) (s : State) : (refuseTransaction wr s).nx = s.nx := by cases wr <;> rfl
@[simp] theorem refuseTransaction_ny (wr : Bool) (s : State) : (refuseTransaction wr s).ny = s.ny := by cases wr <;> rfl
@[simp] theorem refuseTransaction_nrows (wr : Bool) (s : State) : (refuseTransaction wr s).nrows = s.nrows := by cases wr <;> rfl
@[simp] theorem refuseTransaction_muxcnt (wr : Bool) (s : State) : (refuseTransaction wr s).muxcnt = s.muxcnt := by cases wr <;> rfl
@[simp] theorem refuseTransaction_selLvl (wr : Bool) (s : State) : (refuseTransaction wr s).selLvl = s.selLvl := by cases wr <;> rfl
@[simp] theorem refuseTransaction_dataInv (wr : Bool) (s : State) : (refuseTransaction wr s).dataInv = s.dataInv := by cases wr <;> rfl
@[simp] theorem refuseTransaction_oeLow (wr : Bool) (s : State) : (refuseTransaction wr s).oeLow = s.oeLow := by cases wr <;> rfl
@[simp] theorem refuseTransaction_cfgerr (wr : Bool) (s : State) : (refuseTransaction wr s).cfgerr = s.cfgerr := by cases wr <;> rfl
@[simp] theorem refuseTransaction_muxset (wr : Bool) (s : State) : (refuseTransaction wr s).muxset = s.muxset := by cases wr <;> rfl
@[simp] theorem refuseTransaction_muxclr (wr : Bool) (s : State) : (refuseTransaction wr s).muxclr = s.muxclr := by cases wr <;> rfl
@[simp] theorem refuseTransaction_tickcnt (wr : Bool) (s : State) : (refuseTransaction wr s).tickcnt = s.tickcnt := by cases wr <;> rfl
@[simp] theorem refuseTransaction_framecnt (wr : Bool) (s : State) : (refuseTransaction wr s).framecnt = s.framecnt := by cases wr <;> rfl
@[simp] theorem refuseTransaction_onCnt (wr : Bool) (s : State) : (refuseTransaction wr s).onCnt = s.onCnt := by cases wr <;> rfl
@[simp] theorem refuseTransaction_row (wr : Bool) (s : State) : (refuseTransaction wr s).row = s.row := by cases wr <;> rfl
@[simp] theorem refuseTransaction_phase (wr : Bool) (s : State) : (refuseTransaction wr s).phase = s.phase := by cases wr <;> rfl
@[simp] theorem refuseTransaction_busy (wr : Bool) (s : State) : (refuseTransaction wr s).busy = s.busy := by cases wr <;> rfl
@[simp] theorem refuseTransaction_nm (wr : Bool) (s : State) : (refuseTransaction wr s).nm = s.nm := by cases wr <;> rfl
@[simp] theorem refuseTransaction_cnt (wr : Bool) (s : State) : (refuseTransaction wr s).cnt = s.cnt := by cases wr <;> rfl
@[simp] theorem refuseTransaction_oeArmed (wr : Bool) (s : State) : (refuseTransaction wr s).oeArmed = s.oeArmed := by cases wr <;> rfl
@[simp] theorem refuseTransaction_store (wr : Bool) (s : State) : (refuseTransaction wr s).store = s.store := by cases wr <;> rfl
@[simp] theorem refuseTransaction_swapReq (wr : Bool) (s : State) : (refuseTransaction wr s).swapReq = s.swapReq := by cases wr <;> rfl
@[simp] theorem refuseTransaction_copyReq (wr : Bool) (s : State) : (refuseTransaction wr s).copyReq = s.copyReq := by cases wr <;> rfl
@[simp] theorem refuseTransaction_copyBusy (wr : Bool) (s : State) : (refuseTransaction wr s).copyBusy = s.copyBusy := by cases wr <;> rfl
@[simp] theorem refuseTransaction_copyIdx (wr : Bool) (s : State) : (refuseTransaction wr s).copyIdx = s.copyIdx := by cases wr <;> rfl
@[simp] theorem refuseTransaction_shRem (wr : Bool) (s : State) : (refuseTransaction wr s).shRem = s.shRem := by cases wr <;> rfl
@[simp] theorem refuseTransaction_shSrc (wr : Bool) (s : State) : (refuseTransaction wr s).shSrc = s.shSrc := by cases wr <;> rfl
@[simp] theorem refuseTransaction_shSlot (wr : Bool) (s : State) : (refuseTransaction wr s).shSlot = s.shSlot := by cases wr <;> rfl
@[simp] theorem refuseTransaction_muxPend (wr : Bool) (s : State) : (refuseTransaction wr s).muxPend = s.muxPend := by cases wr <;> rfl
@[simp] theorem refuseTransaction_muxLvl (wr : Bool) (s : State) : (refuseTransaction wr s).muxLvl = s.muxLvl := by cases wr <;> rfl
@[simp] theorem refuseTransaction_dataLvl (wr : Bool) (s : State) : (refuseTransaction wr s).dataLvl = s.dataLvl := by cases wr <;> rfl
@[simp] theorem refuseTransaction_clkLvl (wr : Bool) (s : State) : (refuseTransaction wr s).clkLvl = s.clkLvl := by cases wr <;> rfl
@[simp] theorem refuseTransaction_latLvl (wr : Bool) (s : State) : (refuseTransaction wr s).latLvl = s.latLvl := by cases wr <;> rfl
@[simp] theorem refuseTransaction_trace (wr : Bool) (s : State) : (refuseTransaction wr s).trace = s.trace := by cases wr <;> rfl
@[simp] theorem refuseTransaction_panelSr (wr : Bool) (s : State) : (refuseTransaction wr s).panelSr = s.panelSr := by cases wr <;> rfl
@[simp] theorem refuseTransaction_panelLr (wr : Bool) (s : State) : (refuseTransaction wr s).panelLr = s.panelLr := by cases wr <;> rfl
@[simp] theorem refuseTransaction_par (wr : Bool) (s : State) : (refuseTransaction wr s).par = s.par := by cases wr <;> rfl
@[simp] theorem refuseTransaction_hostq (wr : Bool) (s : State) : (refuseTransaction wr s).hostq = s.hostq := by cases wr <;> rfl
@[simp] theorem refuseTransaction_turns (wr : Bool) (s : State) : (refuseTransaction wr s).turns = s.turns := by cases wr <;> rfl
@[simp] theorem refuseTransaction_turn (wr : Bool) (s : State) : (refuseTransaction wr s).turn = s.turn := by cases wr <;> rfl
@[simp] theorem refuseTransaction_draws (wr : Bool) (s : State) : (refuseTransaction wr s).draws = s.draws := by cases wr <;> rfl

/-! ### emit -/

@[simp] theorem emit_run (e : Event) (s : State) : (emit e s).run = s.run := by cases e <;> rfl
@[simp] theorem emit_db (e : Event) (s : State) : (emit e s).db = s.db := by cases e <;> rfl
@[simp] theorem emit_front (e : Event) (s : State) : (emit e s).front = s.front := by cases e <;> rfl
@[simp] theorem emit_bright (e : Event) (s : State) : (emit e s).bright = s.bright := by cases e <;> rfl
@[simp] theorem emit_scanUs (e : Event) (s : State) : (emit e s).scanUs = s.scanUs := by cases e <;> rfl
@[simp] theorem emit_div (e : Event) (s : State) : (emit e s).div = s.div := by cases e <;> rfl
@[simp] theorem emit_period (e : Event) (s : State) : (emit e s).period = s.period := by cases e <;> rfl
@[simp] theorem emit_achUs (e : Event) (s : State) : (emit e s).achUs = s.achUs := by cases e <;> rfl
@[simp] theorem emit_reloadPending (e : Event) (s : State) : (emit e s).reloadPending = s.reloadPending := by cases e <;> rfl
@[simp] theorem emit_pw (e : Event) (s : State) : (emit e s).pw = s.pw := by cases e <;> rfl
@[simp] theorem emit_ph (e : Event) (s : State) : (emit e s).ph = s.ph := by cases e <;> rfl
@[simp] theorem emit_nx (e : Event) (s : State) : (emit e s).nx = s.nx := by cases e <;> rfl
@[simp] theorem emit_ny (e : Event) (s : State) : (emit e s).ny = s.ny := by cases e <;> rfl
@[simp] theorem emit_nrows (e : Event) (s : State) : (emit e s).nrows = s.nrows := by cases e <;> rfl
@[simp] theorem emit_muxcnt (e : Event) (s : State) : (emit e s).muxcnt = s.muxcnt := by cases e <;> rfl
@[simp] theorem emit_selLvl (e : Event) (s : State) : (emit e s).selLvl = s.selLvl := by cases e <;> rfl
@[simp] theorem emit_dataInv (e : Event) (s : State) : (emit e s).dataInv = s.dataInv := by cases e <;> rfl
@[simp] theorem emit_oeLow (e : Event) (s : State) : (emit e s).oeLow = s.oeLow := by cases e <;> rfl
@[simp] theorem emit_cfgerr (e : Event) (s : State) : (emit e s).cfgerr = s.cfgerr := by cases e <;> rfl
@[simp] theorem emit_berr (e : Event) (s : State) : (emit e s).berr = s.berr := by cases e <;> rfl
@[simp] theorem emit_muxset (e : Event) (s : State) : (emit e s).muxset = s.muxset := by cases e <;> rfl
@[simp] theorem emit_muxclr (e : Event) (s : State) : (emit e s).muxclr = s.muxclr := by cases e <;> rfl
@[simp] theorem emit_tickcnt (e : Event) (s : State) : (emit e s).tickcnt = s.tickcnt := by cases e <;> rfl
@[simp] theorem emit_framecnt (e : Event) (s : State) : (emit e s).framecnt = s.framecnt := by cases e <;> rfl
@[simp] theorem emit_onCnt (e : Event) (s : State) : (emit e s).onCnt = s.onCnt := by cases e <;> rfl
@[simp] theorem emit_row (e : Event) (s : State) : (emit e s).row = s.row := by cases e <;> rfl
@[simp] theorem emit_phase (e : Event) (s : State) : (emit e s).phase = s.phase := by cases e <;> rfl
@[simp] theorem emit_busy (e : Event) (s : State) : (emit e s).busy = s.busy := by cases e <;> rfl
@[simp] theorem emit_nm (e : Event) (s : State) : (emit e s).nm = s.nm := by cases e <;> rfl
@[simp] theorem emit_cnt (e : Event) (s : State) : (emit e s).cnt = s.cnt := by cases e <;> rfl
@[simp] theorem emit_oeArmed (e : Event) (s : State) : (emit e s).oeArmed = s.oeArmed := by cases e <;> rfl
@[simp] theorem emit_store (e : Event) (s : State) : (emit e s).store = s.store := by cases e <;> rfl
@[simp] theorem emit_swapReq (e : Event) (s : State) : (emit e s).swapReq = s.swapReq := by cases e <;> rfl
@[simp] theorem emit_copyReq (e : Event) (s : State) : (emit e s).copyReq = s.copyReq := by cases e <;> rfl
@[simp] theorem emit_copyBusy (e : Event) (s : State) : (emit e s).copyBusy = s.copyBusy := by cases e <;> rfl
@[simp] theorem emit_copyIdx (e : Event) (s : State) : (emit e s).copyIdx = s.copyIdx := by cases e <;> rfl
@[simp] theorem emit_shRem (e : Event) (s : State) : (emit e s).shRem = s.shRem := by cases e <;> rfl
@[simp] theorem emit_shSrc (e : Event) (s : State) : (emit e s).shSrc = s.shSrc := by cases e <;> rfl
@[simp] theorem emit_shSlot (e : Event) (s : State) : (emit e s).shSlot = s.shSlot := by cases e <;> rfl
@[simp] theorem emit_muxPend (e : Event) (s : State) : (emit e s).muxPend = s.muxPend := by cases e <;> rfl
@[simp] theorem emit_muxLvl (e : Event) (s : State) : (emit e s).muxLvl = s.muxLvl := by cases e <;> rfl
@[simp] theorem emit_par (e : Event) (s : State) : (emit e s).par = s.par := by cases e <;> rfl
@[simp] theorem emit_hostq (e : Event) (s : State) : (emit e s).hostq = s.hostq := by cases e <;> rfl
@[simp] theorem emit_rdata (e : Event) (s : State) : (emit e s).rdata = s.rdata := by cases e <;> rfl
@[simp] theorem emit_turns (e : Event) (s : State) : (emit e s).turns = s.turns := by cases e <;> rfl
@[simp] theorem emit_turn (e : Event) (s : State) : (emit e s).turn = s.turn := by cases e <;> rfl
@[simp] theorem emit_draws (e : Event) (s : State) : (emit e s).draws = s.draws := by cases e <;> rfl

/-- What every event leaves unchanged, a list of events does. -/
theorem emitAll_keeps {α : Type} (f : State → α) (h : ∀ e u, f (emit e u) = f u) (es : List Event) (s : State) :
    f (emitAll es s) = f s := by
  induction es generalizing s with
  | nil => rfl
  | cons e es ih => exact (ih (emit e s)).trans (h e s)

/-! ### emitAll -/

@[simp] theorem emitAll_run (es : List Event) (s : State) : (emitAll es s).run = s.run := emitAll_keeps State.run (fun e u => emit_run e u) es s
@[simp] theorem emitAll_db (es : List Event) (s : State) : (emitAll es s).db = s.db := emitAll_keeps State.db (fun e u => emit_db e u) es s
@[simp] theorem emitAll_front (es : List Event) (s : State) : (emitAll es s).front = s.front := emitAll_keeps State.front (fun e u => emit_front e u) es s
@[simp] theorem emitAll_bright (es : List Event) (s : State) : (emitAll es s).bright = s.bright := emitAll_keeps State.bright (fun e u => emit_bright e u) es s
@[simp] theorem emitAll_scanUs (es : List Event) (s : State) : (emitAll es s).scanUs = s.scanUs := emitAll_keeps State.scanUs (fun e u => emit_scanUs e u) es s
@[simp] theorem emitAll_div (es : List Event) (s : State) : (emitAll es s).div = s.div := emitAll_keeps State.div (fun e u => emit_div e u) es s
@[simp] theorem emitAll_period (es : List Event) (s : State) : (emitAll es s).period = s.period := emitAll_keeps State.period (fun e u => emit_period e u) es s
@[simp] theorem emitAll_achUs (es : List Event) (s : State) : (emitAll es s).achUs = s.achUs := emitAll_keeps State.achUs (fun e u => emit_achUs e u) es s
@[simp] theorem emitAll_reloadPending (es : List Event) (s : State) : (emitAll es s).reloadPending = s.reloadPending := emitAll_keeps State.reloadPending (fun e u => emit_reloadPending e u) es s
@[simp] theorem emitAll_pw (es : List Event) (s : State) : (emitAll es s).pw = s.pw := emitAll_keeps State.pw (fun e u => emit_pw e u) es s
@[simp] theorem emitAll_ph (es : List Event) (s : State) : (emitAll es s).ph = s.ph := emitAll_keeps State.ph (fun e u => emit_ph e u) es s
@[simp] theorem emitAll_nx (es : List Event) (s : State) : (emitAll es s).nx = s.nx := emitAll_keeps State.nx (fun e u => emit_nx e u) es s
@[simp] theorem emitAll_ny (es : List Event) (s : State) : (emitAll es s).ny = s.ny := emitAll_keeps State.ny (fun e u => emit_ny e u) es s
@[simp] theorem emitAll_nrows (es : List Event) (s : State) : (emitAll es s).nrows = s.nrows := emitAll_keeps State.nrows (fun e u => emit_nrows e u) es s
@[simp] theorem emitAll_muxcnt (es : List Event) (s : State) : (emitAll es s).muxcnt = s.muxcnt := emitAll_keeps State.muxcnt (fun e u => emit_muxcnt e u) es s
@[simp] theorem emitAll_selLvl (es : List Event) (s : State) : (emitAll es s).selLvl = s.selLvl := emitAll_keeps State.selLvl (fun e u => emit_selLvl e u) es s
@[simp] theorem emitAll_dataInv (es : List Event) (s : State) : (emitAll es s).dataInv = s.dataInv := emitAll_keeps State.dataInv (fun e u => emit_dataInv e u) es s
@[simp] theorem emitAll_oeLow (es : List Event) (s : State) : (emitAll es s).oeLow = s.oeLow := emitAll_keeps State.oeLow (fun e u => emit_oeLow e u) es s
@[simp] theorem emitAll_cfgerr (es : List Event) (s : State) : (emitAll es s).cfgerr = s.cfgerr := emitAll_keeps State.cfgerr (fun e u => emit_cfgerr e u) es s
@[simp] theorem emitAll_berr (es : List Event) (s : State) : (emitAll es s).berr = s.berr := emitAll_keeps State.berr (fun e u => emit_berr e u) es s
@[simp] theorem emitAll_muxset (es : List Event) (s : State) : (emitAll es s).muxset = s.muxset := emitAll_keeps State.muxset (fun e u => emit_muxset e u) es s
@[simp] theorem emitAll_muxclr (es : List Event) (s : State) : (emitAll es s).muxclr = s.muxclr := emitAll_keeps State.muxclr (fun e u => emit_muxclr e u) es s
@[simp] theorem emitAll_tickcnt (es : List Event) (s : State) : (emitAll es s).tickcnt = s.tickcnt := emitAll_keeps State.tickcnt (fun e u => emit_tickcnt e u) es s
@[simp] theorem emitAll_framecnt (es : List Event) (s : State) : (emitAll es s).framecnt = s.framecnt := emitAll_keeps State.framecnt (fun e u => emit_framecnt e u) es s
@[simp] theorem emitAll_onCnt (es : List Event) (s : State) : (emitAll es s).onCnt = s.onCnt := emitAll_keeps State.onCnt (fun e u => emit_onCnt e u) es s
@[simp] theorem emitAll_row (es : List Event) (s : State) : (emitAll es s).row = s.row := emitAll_keeps State.row (fun e u => emit_row e u) es s
@[simp] theorem emitAll_phase (es : List Event) (s : State) : (emitAll es s).phase = s.phase := emitAll_keeps State.phase (fun e u => emit_phase e u) es s
@[simp] theorem emitAll_busy (es : List Event) (s : State) : (emitAll es s).busy = s.busy := emitAll_keeps State.busy (fun e u => emit_busy e u) es s
@[simp] theorem emitAll_nm (es : List Event) (s : State) : (emitAll es s).nm = s.nm := emitAll_keeps State.nm (fun e u => emit_nm e u) es s
@[simp] theorem emitAll_cnt (es : List Event) (s : State) : (emitAll es s).cnt = s.cnt := emitAll_keeps State.cnt (fun e u => emit_cnt e u) es s
@[simp] theorem emitAll_oeArmed (es : List Event) (s : State) : (emitAll es s).oeArmed = s.oeArmed := emitAll_keeps State.oeArmed (fun e u => emit_oeArmed e u) es s
@[simp] theorem emitAll_store (es : List Event) (s : State) : (emitAll es s).store = s.store := emitAll_keeps State.store (fun e u => emit_store e u) es s
@[simp] theorem emitAll_swapReq (es : List Event) (s : State) : (emitAll es s).swapReq = s.swapReq := emitAll_keeps State.swapReq (fun e u => emit_swapReq e u) es s
@[simp] theorem emitAll_copyReq (es : List Event) (s : State) : (emitAll es s).copyReq = s.copyReq := emitAll_keeps State.copyReq (fun e u => emit_copyReq e u) es s
@[simp] theorem emitAll_copyBusy (es : List Event) (s : State) : (emitAll es s).copyBusy = s.copyBusy := emitAll_keeps State.copyBusy (fun e u => emit_copyBusy e u) es s
@[simp] theorem emitAll_copyIdx (es : List Event) (s : State) : (emitAll es s).copyIdx = s.copyIdx := emitAll_keeps State.copyIdx (fun e u => emit_copyIdx e u) es s
@[simp] theorem emitAll_shRem (es : List Event) (s : State) : (emitAll es s).shRem = s.shRem := emitAll_keeps State.shRem (fun e u => emit_shRem e u) es s
@[simp] theorem emitAll_shSrc (es : List Event) (s : State) : (emitAll es s).shSrc = s.shSrc := emitAll_keeps State.shSrc (fun e u => emit_shSrc e u) es s
@[simp] theorem emitAll_shSlot (es : List Event) (s : State) : (emitAll es s).shSlot = s.shSlot := emitAll_keeps State.shSlot (fun e u => emit_shSlot e u) es s
@[simp] theorem emitAll_muxPend (es : List Event) (s : State) : (emitAll es s).muxPend = s.muxPend := emitAll_keeps State.muxPend (fun e u => emit_muxPend e u) es s
@[simp] theorem emitAll_muxLvl (es : List Event) (s : State) : (emitAll es s).muxLvl = s.muxLvl := emitAll_keeps State.muxLvl (fun e u => emit_muxLvl e u) es s
@[simp] theorem emitAll_par (es : List Event) (s : State) : (emitAll es s).par = s.par := emitAll_keeps State.par (fun e u => emit_par e u) es s
@[simp] theorem emitAll_hostq (es : List Event) (s : State) : (emitAll es s).hostq = s.hostq := emitAll_keeps State.hostq (fun e u => emit_hostq e u) es s
@[simp] theorem emitAll_rdata (es : List Event) (s : State) : (emitAll es s).rdata = s.rdata := emitAll_keeps State.rdata (fun e u => emit_rdata e u) es s
@[simp] theorem emitAll_turns (es : List Event) (s : State) : (emitAll es s).turns = s.turns := emitAll_keeps State.turns (fun e u => emit_turns e u) es s
@[simp] theorem emitAll_turn (es : List Event) (s : State) : (emitAll es s).turn = s.turn := emitAll_keeps State.turn (fun e u => emit_turn e u) es s
@[simp] theorem emitAll_draws (es : List Event) (s : State) : (emitAll es s).draws = s.draws := emitAll_keeps State.draws (fun e u => emit_draws e u) es s

/-! ### driveMux -/

@[simp] theorem driveMux_run (v : Word) (s : State) : (driveMux v s).run = s.run := rfl
@[simp] theorem driveMux_db (v : Word) (s : State) : (driveMux v s).db = s.db := rfl
@[simp] theorem driveMux_front (v : Word) (s : State) : (driveMux v s).front = s.front := rfl
@[simp] theorem driveMux_bright (v : Word) (s : State) : (driveMux v s).bright = s.bright := rfl
@[simp] theorem driveMux_scanUs (v : Word) (s : State) : (driveMux v s).scanUs = s.scanUs := rfl
@[simp] theorem driveMux_div (v : Word) (s : State) : (driveMux v s).div = s.div := rfl
@[simp] theorem driveMux_period (v : Word) (s : State) : (driveMux v s).period = s.period := rfl
@[simp] theorem driveMux_achUs (v : Word) (s : State) : (driveMux v s).achUs = s.achUs := rfl
@[simp] theorem driveMux_reloadPending (v : Word) (s : State) : (driveMux v s).reloadPending = s.reloadPending := rfl
@[simp] theorem driveMux_pw (v : Word) (s : State) : (driveMux v s).pw = s.pw := rfl
@[simp] theorem driveMux_ph (v : Word) (s : State) : (driveMux v s).ph = s.ph := rfl
@[simp] theorem driveMux_nx (v : Word) (s : State) : (driveMux v s).nx = s.nx := rfl
@[simp] theorem driveMux_ny (v : Word) (s : State) : (driveMux v s).ny = s.ny := rfl
@[simp] theorem driveMux_nrows (v : Word) (s : State) : (driveMux v s).nrows = s.nrows := rfl
@[simp] theorem driveMux_muxcnt (v : Word) (s : State) : (driveMux v s).muxcnt = s.muxcnt := rfl
@[simp] theorem driveMux_selLvl (v : Word) (s : State) : (driveMux v s).selLvl = s.selLvl := rfl
@[simp] theorem driveMux_dataInv (v : Word) (s : State) : (driveMux v s).dataInv = s.dataInv := rfl
@[simp] theorem driveMux_oeLow (v : Word) (s : State) : (driveMux v s).oeLow = s.oeLow := rfl
@[simp] theorem driveMux_cfgerr (v : Word) (s : State) : (driveMux v s).cfgerr = s.cfgerr := rfl
@[simp] theorem driveMux_berr (v : Word) (s : State) : (driveMux v s).berr = s.berr := rfl
@[simp] theorem driveMux_muxset (v : Word) (s : State) : (driveMux v s).muxset = s.muxset := rfl
@[simp] theorem driveMux_muxclr (v : Word) (s : State) : (driveMux v s).muxclr = s.muxclr := rfl
@[simp] theorem driveMux_tickcnt (v : Word) (s : State) : (driveMux v s).tickcnt = s.tickcnt := rfl
@[simp] theorem driveMux_framecnt (v : Word) (s : State) : (driveMux v s).framecnt = s.framecnt := rfl
@[simp] theorem driveMux_onCnt (v : Word) (s : State) : (driveMux v s).onCnt = s.onCnt := rfl
@[simp] theorem driveMux_row (v : Word) (s : State) : (driveMux v s).row = s.row := rfl
@[simp] theorem driveMux_phase (v : Word) (s : State) : (driveMux v s).phase = s.phase := rfl
@[simp] theorem driveMux_busy (v : Word) (s : State) : (driveMux v s).busy = s.busy := rfl
@[simp] theorem driveMux_nm (v : Word) (s : State) : (driveMux v s).nm = s.nm := rfl
@[simp] theorem driveMux_cnt (v : Word) (s : State) : (driveMux v s).cnt = s.cnt := rfl
@[simp] theorem driveMux_oeArmed (v : Word) (s : State) : (driveMux v s).oeArmed = s.oeArmed := rfl
@[simp] theorem driveMux_store (v : Word) (s : State) : (driveMux v s).store = s.store := rfl
@[simp] theorem driveMux_swapReq (v : Word) (s : State) : (driveMux v s).swapReq = s.swapReq := rfl
@[simp] theorem driveMux_copyReq (v : Word) (s : State) : (driveMux v s).copyReq = s.copyReq := rfl
@[simp] theorem driveMux_copyBusy (v : Word) (s : State) : (driveMux v s).copyBusy = s.copyBusy := rfl
@[simp] theorem driveMux_copyIdx (v : Word) (s : State) : (driveMux v s).copyIdx = s.copyIdx := rfl
@[simp] theorem driveMux_shRem (v : Word) (s : State) : (driveMux v s).shRem = s.shRem := rfl
@[simp] theorem driveMux_shSrc (v : Word) (s : State) : (driveMux v s).shSrc = s.shSrc := rfl
@[simp] theorem driveMux_shSlot (v : Word) (s : State) : (driveMux v s).shSlot = s.shSlot := rfl
@[simp] theorem driveMux_muxPend (v : Word) (s : State) : (driveMux v s).muxPend = s.muxPend := rfl
@[simp] theorem driveMux_dataLvl (v : Word) (s : State) : (driveMux v s).dataLvl = s.dataLvl := rfl
@[simp] theorem driveMux_clkLvl (v : Word) (s : State) : (driveMux v s).clkLvl = s.clkLvl := rfl
@[simp] theorem driveMux_latLvl (v : Word) (s : State) : (driveMux v s).latLvl = s.latLvl := rfl
@[simp] theorem driveMux_panelSr (v : Word) (s : State) : (driveMux v s).panelSr = s.panelSr := rfl
@[simp] theorem driveMux_panelLr (v : Word) (s : State) : (driveMux v s).panelLr = s.panelLr := rfl
@[simp] theorem driveMux_par (v : Word) (s : State) : (driveMux v s).par = s.par := rfl
@[simp] theorem driveMux_hostq (v : Word) (s : State) : (driveMux v s).hostq = s.hostq := rfl
@[simp] theorem driveMux_rdata (v : Word) (s : State) : (driveMux v s).rdata = s.rdata := rfl
@[simp] theorem driveMux_turns (v : Word) (s : State) : (driveMux v s).turns = s.turns := rfl
@[simp] theorem driveMux_turn (v : Word) (s : State) : (driveMux v s).turn = s.turn := rfl
@[simp] theorem driveMux_draws (v : Word) (s : State) : (driveMux v s).draws = s.draws := rfl

/-! ### bufWrite -/

@[simp] theorem bufWrite_run (k : Fin 2) (i : Nat) (v : Byte) (s : State) : (bufWrite k i v s).run = s.run := rfl
@[simp] theorem bufWrite_db (k : Fin 2) (i : Nat) (v : Byte) (s : State) : (bufWrite k i v s).db = s.db := rfl
@[simp] theorem bufWrite_front (k : Fin 2) (i : Nat) (v : Byte) (s : State) : (bufWrite k i v s).front = s.front := rfl
@[simp] theorem bufWrite_bright (k : Fin 2) (i : Nat) (v : Byte) (s : State) : (bufWrite k i v s).bright = s.bright := rfl
@[simp] theorem bufWrite_scanUs (k : Fin 2) (i : Nat) (v : Byte) (s : State) : (bufWrite k i v s).scanUs = s.scanUs := rfl
@[simp] theorem bufWrite_div (k : Fin 2) (i : Nat) (v : Byte) (s : State) : (bufWrite k i v s).div = s.div := rfl
@[simp] theorem bufWrite_period (k : Fin 2) (i : Nat) (v : Byte) (s : State) : (bufWrite k i v s).period = s.period := rfl
@[simp] theorem bufWrite_achUs (k : Fin 2) (i : Nat) (v : Byte) (s : State) : (bufWrite k i v s).achUs = s.achUs := rfl
@[simp] theorem bufWrite_reloadPending (k : Fin 2) (i : Nat) (v : Byte) (s : State) : (bufWrite k i v s).reloadPending = s.reloadPending := rfl
@[simp] theorem bufWrite_pw (k : Fin 2) (i : Nat) (v : Byte) (s : State) : (bufWrite k i v s).pw = s.pw := rfl
@[simp] theorem bufWrite_ph (k : Fin 2) (i : Nat) (v : Byte) (s : State) : (bufWrite k i v s).ph = s.ph := rfl
@[simp] theorem bufWrite_nx (k : Fin 2) (i : Nat) (v : Byte) (s : State) : (bufWrite k i v s).nx = s.nx := rfl
@[simp] theorem bufWrite_ny (k : Fin 2) (i : Nat) (v : Byte) (s : State) : (bufWrite k i v s).ny = s.ny := rfl
@[simp] theorem bufWrite_nrows (k : Fin 2) (i : Nat) (v : Byte) (s : State) : (bufWrite k i v s).nrows = s.nrows := rfl
@[simp] theorem bufWrite_muxcnt (k : Fin 2) (i : Nat) (v : Byte) (s : State) : (bufWrite k i v s).muxcnt = s.muxcnt := rfl
@[simp] theorem bufWrite_selLvl (k : Fin 2) (i : Nat) (v : Byte) (s : State) : (bufWrite k i v s).selLvl = s.selLvl := rfl
@[simp] theorem bufWrite_dataInv (k : Fin 2) (i : Nat) (v : Byte) (s : State) : (bufWrite k i v s).dataInv = s.dataInv := rfl
@[simp] theorem bufWrite_oeLow (k : Fin 2) (i : Nat) (v : Byte) (s : State) : (bufWrite k i v s).oeLow = s.oeLow := rfl
@[simp] theorem bufWrite_cfgerr (k : Fin 2) (i : Nat) (v : Byte) (s : State) : (bufWrite k i v s).cfgerr = s.cfgerr := rfl
@[simp] theorem bufWrite_berr (k : Fin 2) (i : Nat) (v : Byte) (s : State) : (bufWrite k i v s).berr = s.berr := rfl
@[simp] theorem bufWrite_muxset (k : Fin 2) (i : Nat) (v : Byte) (s : State) : (bufWrite k i v s).muxset = s.muxset := rfl
@[simp] theorem bufWrite_muxclr (k : Fin 2) (i : Nat) (v : Byte) (s : State) : (bufWrite k i v s).muxclr = s.muxclr := rfl
@[simp] theorem bufWrite_tickcnt (k : Fin 2) (i : Nat) (v : Byte) (s : State) : (bufWrite k i v s).tickcnt = s.tickcnt := rfl
@[simp] theorem bufWrite_framecnt (k : Fin 2) (i : Nat) (v : Byte) (s : State) : (bufWrite k i v s).framecnt = s.framecnt := rfl
@[simp] theorem bufWrite_onCnt (k : Fin 2) (i : Nat) (v : Byte) (s : State) : (bufWrite k i v s).onCnt = s.onCnt := rfl
@[simp] theorem bufWrite_row (k : Fin 2) (i : Nat) (v : Byte) (s : State) : (bufWrite k i v s).row = s.row := rfl
@[simp] theorem bufWrite_phase (k : Fin 2) (i : Nat) (v : Byte) (s : State) : (bufWrite k i v s).phase = s.phase := rfl
@[simp] theorem bufWrite_busy (k : Fin 2) (i : Nat) (v : Byte) (s : State) : (bufWrite k i v s).busy = s.busy := rfl
@[simp] theorem bufWrite_nm (k : Fin 2) (i : Nat) (v : Byte) (s : State) : (bufWrite k i v s).nm = s.nm := rfl
@[simp] theorem bufWrite_cnt (k : Fin 2) (i : Nat) (v : Byte) (s : State) : (bufWrite k i v s).cnt = s.cnt := rfl
@[simp] theorem bufWrite_oeArmed (k : Fin 2) (i : Nat) (v : Byte) (s : State) : (bufWrite k i v s).oeArmed = s.oeArmed := rfl
@[simp] theorem bufWrite_swapReq (k : Fin 2) (i : Nat) (v : Byte) (s : State) : (bufWrite k i v s).swapReq = s.swapReq := rfl
@[simp] theorem bufWrite_copyReq (k : Fin 2) (i : Nat) (v : Byte) (s : State) : (bufWrite k i v s).copyReq = s.copyReq := rfl
@[simp] theorem bufWrite_copyBusy (k : Fin 2) (i : Nat) (v : Byte) (s : State) : (bufWrite k i v s).copyBusy = s.copyBusy := rfl
@[simp] theorem bufWrite_copyIdx (k : Fin 2) (i : Nat) (v : Byte) (s : State) : (bufWrite k i v s).copyIdx = s.copyIdx := rfl
@[simp] theorem bufWrite_shRem (k : Fin 2) (i : Nat) (v : Byte) (s : State) : (bufWrite k i v s).shRem = s.shRem := rfl
@[simp] theorem bufWrite_shSrc (k : Fin 2) (i : Nat) (v : Byte) (s : State) : (bufWrite k i v s).shSrc = s.shSrc := rfl
@[simp] theorem bufWrite_shSlot (k : Fin 2) (i : Nat) (v : Byte) (s : State) : (bufWrite k i v s).shSlot = s.shSlot := rfl
@[simp] theorem bufWrite_muxPend (k : Fin 2) (i : Nat) (v : Byte) (s : State) : (bufWrite k i v s).muxPend = s.muxPend := rfl
@[simp] theorem bufWrite_muxLvl (k : Fin 2) (i : Nat) (v : Byte) (s : State) : (bufWrite k i v s).muxLvl = s.muxLvl := rfl
@[simp] theorem bufWrite_dataLvl (k : Fin 2) (i : Nat) (v : Byte) (s : State) : (bufWrite k i v s).dataLvl = s.dataLvl := rfl
@[simp] theorem bufWrite_clkLvl (k : Fin 2) (i : Nat) (v : Byte) (s : State) : (bufWrite k i v s).clkLvl = s.clkLvl := rfl
@[simp] theorem bufWrite_latLvl (k : Fin 2) (i : Nat) (v : Byte) (s : State) : (bufWrite k i v s).latLvl = s.latLvl := rfl
@[simp] theorem bufWrite_trace (k : Fin 2) (i : Nat) (v : Byte) (s : State) : (bufWrite k i v s).trace = s.trace := rfl
@[simp] theorem bufWrite_panelSr (k : Fin 2) (i : Nat) (v : Byte) (s : State) : (bufWrite k i v s).panelSr = s.panelSr := rfl
@[simp] theorem bufWrite_panelLr (k : Fin 2) (i : Nat) (v : Byte) (s : State) : (bufWrite k i v s).panelLr = s.panelLr := rfl
@[simp] theorem bufWrite_par (k : Fin 2) (i : Nat) (v : Byte) (s : State) : (bufWrite k i v s).par = s.par := rfl
@[simp] theorem bufWrite_hostq (k : Fin 2) (i : Nat) (v : Byte) (s : State) : (bufWrite k i v s).hostq = s.hostq := rfl
@[simp] theorem bufWrite_rdata (k : Fin 2) (i : Nat) (v : Byte) (s : State) : (bufWrite k i v s).rdata = s.rdata := rfl
@[simp] theorem bufWrite_turns (k : Fin 2) (i : Nat) (v : Byte) (s : State) : (bufWrite k i v s).turns = s.turns := rfl
@[simp] theorem bufWrite_turn (k : Fin 2) (i : Nat) (v : Byte) (s : State) : (bufWrite k i v s).turn = s.turn := rfl
@[simp] theorem bufWrite_draws (k : Fin 2) (i : Nat) (v : Byte) (s : State) : (bufWrite k i v s).draws = s.draws := rfl

/-- What every byte write leaves unchanged, a window write does. -/
theorem memWrite_keeps {α : Type} (f : State → α) (h : ∀ k i b u, f (bufWrite k i b u) = f u) (a n : Nat) (v : Word)
    (s : State) : f (memWrite a n v s) = f s := by
  unfold memWrite
  generalize List.range n = l
  generalize hu : s = u
  rw [show bslot u = bslot s from by rw [hu]]
  clear hu
  induction l generalizing u with
  | nil => rfl
  | cons t l ih => exact (ih _).trans (h _ _ _ _)

/-! ### memWrite -/

@[simp] theorem memWrite_run (a n : Nat) (v : Word) (s : State) : (memWrite a n v s).run = s.run := memWrite_keeps State.run (fun k i b u => bufWrite_run k i b u) a n v s
@[simp] theorem memWrite_db (a n : Nat) (v : Word) (s : State) : (memWrite a n v s).db = s.db := memWrite_keeps State.db (fun k i b u => bufWrite_db k i b u) a n v s
@[simp] theorem memWrite_front (a n : Nat) (v : Word) (s : State) : (memWrite a n v s).front = s.front := memWrite_keeps State.front (fun k i b u => bufWrite_front k i b u) a n v s
@[simp] theorem memWrite_bright (a n : Nat) (v : Word) (s : State) : (memWrite a n v s).bright = s.bright := memWrite_keeps State.bright (fun k i b u => bufWrite_bright k i b u) a n v s
@[simp] theorem memWrite_scanUs (a n : Nat) (v : Word) (s : State) : (memWrite a n v s).scanUs = s.scanUs := memWrite_keeps State.scanUs (fun k i b u => bufWrite_scanUs k i b u) a n v s
@[simp] theorem memWrite_div (a n : Nat) (v : Word) (s : State) : (memWrite a n v s).div = s.div := memWrite_keeps State.div (fun k i b u => bufWrite_div k i b u) a n v s
@[simp] theorem memWrite_period (a n : Nat) (v : Word) (s : State) : (memWrite a n v s).period = s.period := memWrite_keeps State.period (fun k i b u => bufWrite_period k i b u) a n v s
@[simp] theorem memWrite_achUs (a n : Nat) (v : Word) (s : State) : (memWrite a n v s).achUs = s.achUs := memWrite_keeps State.achUs (fun k i b u => bufWrite_achUs k i b u) a n v s
@[simp] theorem memWrite_reloadPending (a n : Nat) (v : Word) (s : State) : (memWrite a n v s).reloadPending = s.reloadPending := memWrite_keeps State.reloadPending (fun k i b u => bufWrite_reloadPending k i b u) a n v s
@[simp] theorem memWrite_pw (a n : Nat) (v : Word) (s : State) : (memWrite a n v s).pw = s.pw := memWrite_keeps State.pw (fun k i b u => bufWrite_pw k i b u) a n v s
@[simp] theorem memWrite_ph (a n : Nat) (v : Word) (s : State) : (memWrite a n v s).ph = s.ph := memWrite_keeps State.ph (fun k i b u => bufWrite_ph k i b u) a n v s
@[simp] theorem memWrite_nx (a n : Nat) (v : Word) (s : State) : (memWrite a n v s).nx = s.nx := memWrite_keeps State.nx (fun k i b u => bufWrite_nx k i b u) a n v s
@[simp] theorem memWrite_ny (a n : Nat) (v : Word) (s : State) : (memWrite a n v s).ny = s.ny := memWrite_keeps State.ny (fun k i b u => bufWrite_ny k i b u) a n v s
@[simp] theorem memWrite_nrows (a n : Nat) (v : Word) (s : State) : (memWrite a n v s).nrows = s.nrows := memWrite_keeps State.nrows (fun k i b u => bufWrite_nrows k i b u) a n v s
@[simp] theorem memWrite_muxcnt (a n : Nat) (v : Word) (s : State) : (memWrite a n v s).muxcnt = s.muxcnt := memWrite_keeps State.muxcnt (fun k i b u => bufWrite_muxcnt k i b u) a n v s
@[simp] theorem memWrite_selLvl (a n : Nat) (v : Word) (s : State) : (memWrite a n v s).selLvl = s.selLvl := memWrite_keeps State.selLvl (fun k i b u => bufWrite_selLvl k i b u) a n v s
@[simp] theorem memWrite_dataInv (a n : Nat) (v : Word) (s : State) : (memWrite a n v s).dataInv = s.dataInv := memWrite_keeps State.dataInv (fun k i b u => bufWrite_dataInv k i b u) a n v s
@[simp] theorem memWrite_oeLow (a n : Nat) (v : Word) (s : State) : (memWrite a n v s).oeLow = s.oeLow := memWrite_keeps State.oeLow (fun k i b u => bufWrite_oeLow k i b u) a n v s
@[simp] theorem memWrite_cfgerr (a n : Nat) (v : Word) (s : State) : (memWrite a n v s).cfgerr = s.cfgerr := memWrite_keeps State.cfgerr (fun k i b u => bufWrite_cfgerr k i b u) a n v s
@[simp] theorem memWrite_berr (a n : Nat) (v : Word) (s : State) : (memWrite a n v s).berr = s.berr := memWrite_keeps State.berr (fun k i b u => bufWrite_berr k i b u) a n v s
@[simp] theorem memWrite_muxset (a n : Nat) (v : Word) (s : State) : (memWrite a n v s).muxset = s.muxset := memWrite_keeps State.muxset (fun k i b u => bufWrite_muxset k i b u) a n v s
@[simp] theorem memWrite_muxclr (a n : Nat) (v : Word) (s : State) : (memWrite a n v s).muxclr = s.muxclr := memWrite_keeps State.muxclr (fun k i b u => bufWrite_muxclr k i b u) a n v s
@[simp] theorem memWrite_tickcnt (a n : Nat) (v : Word) (s : State) : (memWrite a n v s).tickcnt = s.tickcnt := memWrite_keeps State.tickcnt (fun k i b u => bufWrite_tickcnt k i b u) a n v s
@[simp] theorem memWrite_framecnt (a n : Nat) (v : Word) (s : State) : (memWrite a n v s).framecnt = s.framecnt := memWrite_keeps State.framecnt (fun k i b u => bufWrite_framecnt k i b u) a n v s
@[simp] theorem memWrite_onCnt (a n : Nat) (v : Word) (s : State) : (memWrite a n v s).onCnt = s.onCnt := memWrite_keeps State.onCnt (fun k i b u => bufWrite_onCnt k i b u) a n v s
@[simp] theorem memWrite_row (a n : Nat) (v : Word) (s : State) : (memWrite a n v s).row = s.row := memWrite_keeps State.row (fun k i b u => bufWrite_row k i b u) a n v s
@[simp] theorem memWrite_phase (a n : Nat) (v : Word) (s : State) : (memWrite a n v s).phase = s.phase := memWrite_keeps State.phase (fun k i b u => bufWrite_phase k i b u) a n v s
@[simp] theorem memWrite_busy (a n : Nat) (v : Word) (s : State) : (memWrite a n v s).busy = s.busy := memWrite_keeps State.busy (fun k i b u => bufWrite_busy k i b u) a n v s
@[simp] theorem memWrite_nm (a n : Nat) (v : Word) (s : State) : (memWrite a n v s).nm = s.nm := memWrite_keeps State.nm (fun k i b u => bufWrite_nm k i b u) a n v s
@[simp] theorem memWrite_cnt (a n : Nat) (v : Word) (s : State) : (memWrite a n v s).cnt = s.cnt := memWrite_keeps State.cnt (fun k i b u => bufWrite_cnt k i b u) a n v s
@[simp] theorem memWrite_oeArmed (a n : Nat) (v : Word) (s : State) : (memWrite a n v s).oeArmed = s.oeArmed := memWrite_keeps State.oeArmed (fun k i b u => bufWrite_oeArmed k i b u) a n v s
@[simp] theorem memWrite_swapReq (a n : Nat) (v : Word) (s : State) : (memWrite a n v s).swapReq = s.swapReq := memWrite_keeps State.swapReq (fun k i b u => bufWrite_swapReq k i b u) a n v s
@[simp] theorem memWrite_copyReq (a n : Nat) (v : Word) (s : State) : (memWrite a n v s).copyReq = s.copyReq := memWrite_keeps State.copyReq (fun k i b u => bufWrite_copyReq k i b u) a n v s
@[simp] theorem memWrite_copyBusy (a n : Nat) (v : Word) (s : State) : (memWrite a n v s).copyBusy = s.copyBusy := memWrite_keeps State.copyBusy (fun k i b u => bufWrite_copyBusy k i b u) a n v s
@[simp] theorem memWrite_copyIdx (a n : Nat) (v : Word) (s : State) : (memWrite a n v s).copyIdx = s.copyIdx := memWrite_keeps State.copyIdx (fun k i b u => bufWrite_copyIdx k i b u) a n v s
@[simp] theorem memWrite_shRem (a n : Nat) (v : Word) (s : State) : (memWrite a n v s).shRem = s.shRem := memWrite_keeps State.shRem (fun k i b u => bufWrite_shRem k i b u) a n v s
@[simp] theorem memWrite_shSrc (a n : Nat) (v : Word) (s : State) : (memWrite a n v s).shSrc = s.shSrc := memWrite_keeps State.shSrc (fun k i b u => bufWrite_shSrc k i b u) a n v s
@[simp] theorem memWrite_shSlot (a n : Nat) (v : Word) (s : State) : (memWrite a n v s).shSlot = s.shSlot := memWrite_keeps State.shSlot (fun k i b u => bufWrite_shSlot k i b u) a n v s
@[simp] theorem memWrite_muxPend (a n : Nat) (v : Word) (s : State) : (memWrite a n v s).muxPend = s.muxPend := memWrite_keeps State.muxPend (fun k i b u => bufWrite_muxPend k i b u) a n v s
@[simp] theorem memWrite_muxLvl (a n : Nat) (v : Word) (s : State) : (memWrite a n v s).muxLvl = s.muxLvl := memWrite_keeps State.muxLvl (fun k i b u => bufWrite_muxLvl k i b u) a n v s
@[simp] theorem memWrite_dataLvl (a n : Nat) (v : Word) (s : State) : (memWrite a n v s).dataLvl = s.dataLvl := memWrite_keeps State.dataLvl (fun k i b u => bufWrite_dataLvl k i b u) a n v s
@[simp] theorem memWrite_clkLvl (a n : Nat) (v : Word) (s : State) : (memWrite a n v s).clkLvl = s.clkLvl := memWrite_keeps State.clkLvl (fun k i b u => bufWrite_clkLvl k i b u) a n v s
@[simp] theorem memWrite_latLvl (a n : Nat) (v : Word) (s : State) : (memWrite a n v s).latLvl = s.latLvl := memWrite_keeps State.latLvl (fun k i b u => bufWrite_latLvl k i b u) a n v s
@[simp] theorem memWrite_trace (a n : Nat) (v : Word) (s : State) : (memWrite a n v s).trace = s.trace := memWrite_keeps State.trace (fun k i b u => bufWrite_trace k i b u) a n v s
@[simp] theorem memWrite_panelSr (a n : Nat) (v : Word) (s : State) : (memWrite a n v s).panelSr = s.panelSr := memWrite_keeps State.panelSr (fun k i b u => bufWrite_panelSr k i b u) a n v s
@[simp] theorem memWrite_panelLr (a n : Nat) (v : Word) (s : State) : (memWrite a n v s).panelLr = s.panelLr := memWrite_keeps State.panelLr (fun k i b u => bufWrite_panelLr k i b u) a n v s
@[simp] theorem memWrite_par (a n : Nat) (v : Word) (s : State) : (memWrite a n v s).par = s.par := memWrite_keeps State.par (fun k i b u => bufWrite_par k i b u) a n v s
@[simp] theorem memWrite_hostq (a n : Nat) (v : Word) (s : State) : (memWrite a n v s).hostq = s.hostq := memWrite_keeps State.hostq (fun k i b u => bufWrite_hostq k i b u) a n v s
@[simp] theorem memWrite_rdata (a n : Nat) (v : Word) (s : State) : (memWrite a n v s).rdata = s.rdata := memWrite_keeps State.rdata (fun k i b u => bufWrite_rdata k i b u) a n v s
@[simp] theorem memWrite_turns (a n : Nat) (v : Word) (s : State) : (memWrite a n v s).turns = s.turns := memWrite_keeps State.turns (fun k i b u => bufWrite_turns k i b u) a n v s
@[simp] theorem memWrite_turn (a n : Nat) (v : Word) (s : State) : (memWrite a n v s).turn = s.turn := memWrite_keeps State.turn (fun k i b u => bufWrite_turn k i b u) a n v s
@[simp] theorem memWrite_draws (a n : Nat) (v : Word) (s : State) : (memWrite a n v s).draws = s.draws := memWrite_keeps State.draws (fun k i b u => bufWrite_draws k i b u) a n v s

/-! ### enterBurst -/

@[simp] theorem enterBurst_run (s : State) : (enterBurst s).run = s.run := rfl
@[simp] theorem enterBurst_db (s : State) : (enterBurst s).db = s.db := rfl
@[simp] theorem enterBurst_front (s : State) : (enterBurst s).front = s.front := rfl
@[simp] theorem enterBurst_bright (s : State) : (enterBurst s).bright = s.bright := rfl
@[simp] theorem enterBurst_scanUs (s : State) : (enterBurst s).scanUs = s.scanUs := rfl
@[simp] theorem enterBurst_div (s : State) : (enterBurst s).div = s.div := rfl
@[simp] theorem enterBurst_period (s : State) : (enterBurst s).period = s.period := rfl
@[simp] theorem enterBurst_achUs (s : State) : (enterBurst s).achUs = s.achUs := rfl
@[simp] theorem enterBurst_reloadPending (s : State) : (enterBurst s).reloadPending = s.reloadPending := rfl
@[simp] theorem enterBurst_pw (s : State) : (enterBurst s).pw = s.pw := rfl
@[simp] theorem enterBurst_ph (s : State) : (enterBurst s).ph = s.ph := rfl
@[simp] theorem enterBurst_nx (s : State) : (enterBurst s).nx = s.nx := rfl
@[simp] theorem enterBurst_ny (s : State) : (enterBurst s).ny = s.ny := rfl
@[simp] theorem enterBurst_nrows (s : State) : (enterBurst s).nrows = s.nrows := rfl
@[simp] theorem enterBurst_muxcnt (s : State) : (enterBurst s).muxcnt = s.muxcnt := rfl
@[simp] theorem enterBurst_selLvl (s : State) : (enterBurst s).selLvl = s.selLvl := rfl
@[simp] theorem enterBurst_dataInv (s : State) : (enterBurst s).dataInv = s.dataInv := rfl
@[simp] theorem enterBurst_oeLow (s : State) : (enterBurst s).oeLow = s.oeLow := rfl
@[simp] theorem enterBurst_cfgerr (s : State) : (enterBurst s).cfgerr = s.cfgerr := rfl
@[simp] theorem enterBurst_berr (s : State) : (enterBurst s).berr = s.berr := rfl
@[simp] theorem enterBurst_muxset (s : State) : (enterBurst s).muxset = s.muxset := rfl
@[simp] theorem enterBurst_muxclr (s : State) : (enterBurst s).muxclr = s.muxclr := rfl
@[simp] theorem enterBurst_framecnt (s : State) : (enterBurst s).framecnt = s.framecnt := rfl
@[simp] theorem enterBurst_onCnt (s : State) : (enterBurst s).onCnt = s.onCnt := rfl
@[simp] theorem enterBurst_row (s : State) : (enterBurst s).row = s.row := rfl
@[simp] theorem enterBurst_phase (s : State) : (enterBurst s).phase = s.phase := rfl
@[simp] theorem enterBurst_nm (s : State) : (enterBurst s).nm = s.nm := rfl
@[simp] theorem enterBurst_oeArmed (s : State) : (enterBurst s).oeArmed = s.oeArmed := rfl
@[simp] theorem enterBurst_store (s : State) : (enterBurst s).store = s.store := rfl
@[simp] theorem enterBurst_swapReq (s : State) : (enterBurst s).swapReq = s.swapReq := rfl
@[simp] theorem enterBurst_copyReq (s : State) : (enterBurst s).copyReq = s.copyReq := rfl
@[simp] theorem enterBurst_copyBusy (s : State) : (enterBurst s).copyBusy = s.copyBusy := rfl
@[simp] theorem enterBurst_copyIdx (s : State) : (enterBurst s).copyIdx = s.copyIdx := rfl
@[simp] theorem enterBurst_shRem (s : State) : (enterBurst s).shRem = s.shRem := rfl
@[simp] theorem enterBurst_shSrc (s : State) : (enterBurst s).shSrc = s.shSrc := rfl
@[simp] theorem enterBurst_shSlot (s : State) : (enterBurst s).shSlot = s.shSlot := rfl
@[simp] theorem enterBurst_muxPend (s : State) : (enterBurst s).muxPend = s.muxPend := rfl
@[simp] theorem enterBurst_muxLvl (s : State) : (enterBurst s).muxLvl = s.muxLvl := rfl
@[simp] theorem enterBurst_dataLvl (s : State) : (enterBurst s).dataLvl = s.dataLvl := rfl
@[simp] theorem enterBurst_clkLvl (s : State) : (enterBurst s).clkLvl = s.clkLvl := rfl
@[simp] theorem enterBurst_latLvl (s : State) : (enterBurst s).latLvl = s.latLvl := rfl
@[simp] theorem enterBurst_trace (s : State) : (enterBurst s).trace = s.trace := rfl
@[simp] theorem enterBurst_panelSr (s : State) : (enterBurst s).panelSr = s.panelSr := rfl
@[simp] theorem enterBurst_panelLr (s : State) : (enterBurst s).panelLr = s.panelLr := rfl
@[simp] theorem enterBurst_par (s : State) : (enterBurst s).par = s.par := rfl
@[simp] theorem enterBurst_hostq (s : State) : (enterBurst s).hostq = s.hostq := rfl
@[simp] theorem enterBurst_rdata (s : State) : (enterBurst s).rdata = s.rdata := rfl
@[simp] theorem enterBurst_turns (s : State) : (enterBurst s).turns = s.turns := rfl
@[simp] theorem enterBurst_turn (s : State) : (enterBurst s).turn = s.turn := rfl
@[simp] theorem enterBurst_draws (s : State) : (enterBurst s).draws = s.draws := rfl

/-! ### leaveBurst -/

@[simp] theorem leaveBurst_run (s : State) : (leaveBurst s).run = s.run := rfl
@[simp] theorem leaveBurst_db (s : State) : (leaveBurst s).db = s.db := rfl
@[simp] theorem leaveBurst_front (s : State) : (leaveBurst s).front = s.front := rfl
@[simp] theorem leaveBurst_bright (s : State) : (leaveBurst s).bright = s.bright := rfl
@[simp] theorem leaveBurst_scanUs (s : State) : (leaveBurst s).scanUs = s.scanUs := rfl
@[simp] theorem leaveBurst_div (s : State) : (leaveBurst s).div = s.div := rfl
@[simp] theorem leaveBurst_period (s : State) : (leaveBurst s).period = s.period := rfl
@[simp] theorem leaveBurst_achUs (s : State) : (leaveBurst s).achUs = s.achUs := rfl
@[simp] theorem leaveBurst_reloadPending (s : State) : (leaveBurst s).reloadPending = s.reloadPending := rfl
@[simp] theorem leaveBurst_pw (s : State) : (leaveBurst s).pw = s.pw := rfl
@[simp] theorem leaveBurst_ph (s : State) : (leaveBurst s).ph = s.ph := rfl
@[simp] theorem leaveBurst_nx (s : State) : (leaveBurst s).nx = s.nx := rfl
@[simp] theorem leaveBurst_ny (s : State) : (leaveBurst s).ny = s.ny := rfl
@[simp] theorem leaveBurst_nrows (s : State) : (leaveBurst s).nrows = s.nrows := rfl
@[simp] theorem leaveBurst_muxcnt (s : State) : (leaveBurst s).muxcnt = s.muxcnt := rfl
@[simp] theorem leaveBurst_selLvl (s : State) : (leaveBurst s).selLvl = s.selLvl := rfl
@[simp] theorem leaveBurst_dataInv (s : State) : (leaveBurst s).dataInv = s.dataInv := rfl
@[simp] theorem leaveBurst_oeLow (s : State) : (leaveBurst s).oeLow = s.oeLow := rfl
@[simp] theorem leaveBurst_cfgerr (s : State) : (leaveBurst s).cfgerr = s.cfgerr := rfl
@[simp] theorem leaveBurst_berr (s : State) : (leaveBurst s).berr = s.berr := rfl
@[simp] theorem leaveBurst_muxset (s : State) : (leaveBurst s).muxset = s.muxset := rfl
@[simp] theorem leaveBurst_muxclr (s : State) : (leaveBurst s).muxclr = s.muxclr := rfl
@[simp] theorem leaveBurst_tickcnt (s : State) : (leaveBurst s).tickcnt = s.tickcnt := rfl
@[simp] theorem leaveBurst_framecnt (s : State) : (leaveBurst s).framecnt = s.framecnt := rfl
@[simp] theorem leaveBurst_onCnt (s : State) : (leaveBurst s).onCnt = s.onCnt := rfl
@[simp] theorem leaveBurst_row (s : State) : (leaveBurst s).row = s.row := rfl
@[simp] theorem leaveBurst_nm (s : State) : (leaveBurst s).nm = s.nm := rfl
@[simp] theorem leaveBurst_cnt (s : State) : (leaveBurst s).cnt = s.cnt := rfl
@[simp] theorem leaveBurst_oeArmed (s : State) : (leaveBurst s).oeArmed = s.oeArmed := rfl
@[simp] theorem leaveBurst_store (s : State) : (leaveBurst s).store = s.store := rfl
@[simp] theorem leaveBurst_swapReq (s : State) : (leaveBurst s).swapReq = s.swapReq := rfl
@[simp] theorem leaveBurst_copyReq (s : State) : (leaveBurst s).copyReq = s.copyReq := rfl
@[simp] theorem leaveBurst_copyBusy (s : State) : (leaveBurst s).copyBusy = s.copyBusy := rfl
@[simp] theorem leaveBurst_copyIdx (s : State) : (leaveBurst s).copyIdx = s.copyIdx := rfl
@[simp] theorem leaveBurst_shRem (s : State) : (leaveBurst s).shRem = s.shRem := rfl
@[simp] theorem leaveBurst_shSrc (s : State) : (leaveBurst s).shSrc = s.shSrc := rfl
@[simp] theorem leaveBurst_shSlot (s : State) : (leaveBurst s).shSlot = s.shSlot := rfl
@[simp] theorem leaveBurst_muxPend (s : State) : (leaveBurst s).muxPend = s.muxPend := rfl
@[simp] theorem leaveBurst_muxLvl (s : State) : (leaveBurst s).muxLvl = s.muxLvl := rfl
@[simp] theorem leaveBurst_dataLvl (s : State) : (leaveBurst s).dataLvl = s.dataLvl := rfl
@[simp] theorem leaveBurst_clkLvl (s : State) : (leaveBurst s).clkLvl = s.clkLvl := rfl
@[simp] theorem leaveBurst_latLvl (s : State) : (leaveBurst s).latLvl = s.latLvl := rfl
@[simp] theorem leaveBurst_trace (s : State) : (leaveBurst s).trace = s.trace := rfl
@[simp] theorem leaveBurst_panelSr (s : State) : (leaveBurst s).panelSr = s.panelSr := rfl
@[simp] theorem leaveBurst_panelLr (s : State) : (leaveBurst s).panelLr = s.panelLr := rfl
@[simp] theorem leaveBurst_par (s : State) : (leaveBurst s).par = s.par := rfl
@[simp] theorem leaveBurst_hostq (s : State) : (leaveBurst s).hostq = s.hostq := rfl
@[simp] theorem leaveBurst_rdata (s : State) : (leaveBurst s).rdata = s.rdata := rfl
@[simp] theorem leaveBurst_turns (s : State) : (leaveBurst s).turns = s.turns := rfl
@[simp] theorem leaveBurst_turn (s : State) : (leaveBurst s).turn = s.turn := rfl
@[simp] theorem leaveBurst_draws (s : State) : (leaveBurst s).draws = s.draws := rfl

/-! ### exchange -/

@[simp] theorem exchange_run (s : State) : (exchange s).run = s.run := rfl
@[simp] theorem exchange_db (s : State) : (exchange s).db = s.db := rfl
@[simp] theorem exchange_bright (s : State) : (exchange s).bright = s.bright := rfl
@[simp] theorem exchange_scanUs (s : State) : (exchange s).scanUs = s.scanUs := rfl
@[simp] theorem exchange_div (s : State) : (exchange s).div = s.div := rfl
@[simp] theorem exchange_period (s : State) : (exchange s).period = s.period := rfl
@[simp] theorem exchange_achUs (s : State) : (exchange s).achUs = s.achUs := rfl
@[simp] theorem exchange_reloadPending (s : State) : (exchange s).reloadPending = s.reloadPending := rfl
@[simp] theorem exchange_pw (s : State) : (exchange s).pw = s.pw := rfl
@[simp] theorem exchange_ph (s : State) : (exchange s).ph = s.ph := rfl
@[simp] theorem exchange_nx (s : State) : (exchange s).nx = s.nx := rfl
@[simp] theorem exchange_ny (s : State) : (exchange s).ny = s.ny := rfl
@[simp] theorem exchange_nrows (s : State) : (exchange s).nrows = s.nrows := rfl
@[simp] theorem exchange_muxcnt (s : State) : (exchange s).muxcnt = s.muxcnt := rfl
@[simp] theorem exchange_selLvl (s : State) : (exchange s).selLvl = s.selLvl := rfl
@[simp] theorem exchange_dataInv (s : State) : (exchange s).dataInv = s.dataInv := rfl
@[simp] theorem exchange_oeLow (s : State) : (exchange s).oeLow = s.oeLow := rfl
@[simp] theorem exchange_cfgerr (s : State) : (exchange s).cfgerr = s.cfgerr := rfl
@[simp] theorem exchange_berr (s : State) : (exchange s).berr = s.berr := rfl
@[simp] theorem exchange_muxset (s : State) : (exchange s).muxset = s.muxset := rfl
@[simp] theorem exchange_muxclr (s : State) : (exchange s).muxclr = s.muxclr := rfl
@[simp] theorem exchange_tickcnt (s : State) : (exchange s).tickcnt = s.tickcnt := rfl
@[simp] theorem exchange_framecnt (s : State) : (exchange s).framecnt = s.framecnt := rfl
@[simp] theorem exchange_onCnt (s : State) : (exchange s).onCnt = s.onCnt := rfl
@[simp] theorem exchange_row (s : State) : (exchange s).row = s.row := rfl
@[simp] theorem exchange_phase (s : State) : (exchange s).phase = s.phase := rfl
@[simp] theorem exchange_busy (s : State) : (exchange s).busy = s.busy := rfl
@[simp] theorem exchange_nm (s : State) : (exchange s).nm = s.nm := rfl
@[simp] theorem exchange_cnt (s : State) : (exchange s).cnt = s.cnt := rfl
@[simp] theorem exchange_oeArmed (s : State) : (exchange s).oeArmed = s.oeArmed := rfl
@[simp] theorem exchange_store (s : State) : (exchange s).store = s.store := rfl
@[simp] theorem exchange_shRem (s : State) : (exchange s).shRem = s.shRem := rfl
@[simp] theorem exchange_shSrc (s : State) : (exchange s).shSrc = s.shSrc := rfl
@[simp] theorem exchange_shSlot (s : State) : (exchange s).shSlot = s.shSlot := rfl
@[simp] theorem exchange_muxPend (s : State) : (exchange s).muxPend = s.muxPend := rfl
@[simp] theorem exchange_muxLvl (s : State) : (exchange s).muxLvl = s.muxLvl := rfl
@[simp] theorem exchange_dataLvl (s : State) : (exchange s).dataLvl = s.dataLvl := rfl
@[simp] theorem exchange_clkLvl (s : State) : (exchange s).clkLvl = s.clkLvl := rfl
@[simp] theorem exchange_latLvl (s : State) : (exchange s).latLvl = s.latLvl := rfl
@[simp] theorem exchange_trace (s : State) : (exchange s).trace = s.trace := rfl
@[simp] theorem exchange_panelSr (s : State) : (exchange s).panelSr = s.panelSr := rfl
@[simp] theorem exchange_panelLr (s : State) : (exchange s).panelLr = s.panelLr := rfl
@[simp] theorem exchange_par (s : State) : (exchange s).par = s.par := rfl
@[simp] theorem exchange_hostq (s : State) : (exchange s).hostq = s.hostq := rfl
@[simp] theorem exchange_rdata (s : State) : (exchange s).rdata = s.rdata := rfl
@[simp] theorem exchange_turns (s : State) : (exchange s).turns = s.turns := rfl
@[simp] theorem exchange_turn (s : State) : (exchange s).turn = s.turn := rfl
@[simp] theorem exchange_draws (s : State) : (exchange s).draws = s.draws := rfl

/-! ### generateMuxTable -/

@[simp] theorem generateMuxTable_run (s : State) : (generateMuxTable s).run = s.run := by unfold generateMuxTable; rfl
@[simp] theorem generateMuxTable_db (s : State) : (generateMuxTable s).db = s.db := by unfold generateMuxTable; rfl
@[simp] theorem generateMuxTable_front (s : State) : (generateMuxTable s).front = s.front := by unfold generateMuxTable; rfl
@[simp] theorem generateMuxTable_bright (s : State) : (generateMuxTable s).bright = s.bright := by unfold generateMuxTable; rfl
@[simp] theorem generateMuxTable_scanUs (s : State) : (generateMuxTable s).scanUs = s.scanUs := by unfold generateMuxTable; rfl
@[simp] theorem generateMuxTable_div (s : State) : (generateMuxTable s).div = s.div := by unfold generateMuxTable; rfl
@[simp] theorem generateMuxTable_period (s : State) : (generateMuxTable s).period = s.period := by unfold generateMuxTable; rfl
@[simp] theorem generateMuxTable_achUs (s : State) : (generateMuxTable s).achUs = s.achUs := by unfold generateMuxTable; rfl
@[simp] theorem generateMuxTable_reloadPending (s : State) : (generateMuxTable s).reloadPending = s.reloadPending := by unfold generateMuxTable; rfl
@[simp] theorem generateMuxTable_pw (s : State) : (generateMuxTable s).pw = s.pw := by unfold generateMuxTable; rfl
@[simp] theorem generateMuxTable_ph (s : State) : (generateMuxTable s).ph = s.ph := by unfold generateMuxTable; rfl
@[simp] theorem generateMuxTable_nx (s : State) : (generateMuxTable s).nx = s.nx := by unfold generateMuxTable; rfl
@[simp] theorem generateMuxTable_ny (s : State) : (generateMuxTable s).ny = s.ny := by unfold generateMuxTable; rfl
@[simp] theorem generateMuxTable_nrows (s : State) : (generateMuxTable s).nrows = s.nrows := by unfold generateMuxTable; rfl
@[simp] theorem generateMuxTable_muxcnt (s : State) : (generateMuxTable s).muxcnt = s.muxcnt := by unfold generateMuxTable; rfl
@[simp] theorem generateMuxTable_selLvl (s : State) : (generateMuxTable s).selLvl = s.selLvl := by unfold generateMuxTable; rfl
@[simp] theorem generateMuxTable_dataInv (s : State) : (generateMuxTable s).dataInv = s.dataInv := by unfold generateMuxTable; rfl
@[simp] theorem generateMuxTable_oeLow (s : State) : (generateMuxTable s).oeLow = s.oeLow := by unfold generateMuxTable; rfl
@[simp] theorem generateMuxTable_cfgerr (s : State) : (generateMuxTable s).cfgerr = s.cfgerr := by unfold generateMuxTable; rfl
@[simp] theorem generateMuxTable_berr (s : State) : (generateMuxTable s).berr = s.berr := by unfold generateMuxTable; rfl
@[simp] theorem generateMuxTable_tickcnt (s : State) : (generateMuxTable s).tickcnt = s.tickcnt := by unfold generateMuxTable; rfl
@[simp] theorem generateMuxTable_framecnt (s : State) : (generateMuxTable s).framecnt = s.framecnt := by unfold generateMuxTable; rfl
@[simp] theorem generateMuxTable_onCnt (s : State) : (generateMuxTable s).onCnt = s.onCnt := by unfold generateMuxTable; rfl
@[simp] theorem generateMuxTable_row (s : State) : (generateMuxTable s).row = s.row := by unfold generateMuxTable; rfl
@[simp] theorem generateMuxTable_phase (s : State) : (generateMuxTable s).phase = s.phase := by unfold generateMuxTable; rfl
@[simp] theorem generateMuxTable_busy (s : State) : (generateMuxTable s).busy = s.busy := by unfold generateMuxTable; rfl
@[simp] theorem generateMuxTable_nm (s : State) : (generateMuxTable s).nm = s.nm := by unfold generateMuxTable; rfl
@[simp] theorem generateMuxTable_cnt (s : State) : (generateMuxTable s).cnt = s.cnt := by unfold generateMuxTable; rfl
@[simp] theorem generateMuxTable_oeArmed (s : State) : (generateMuxTable s).oeArmed = s.oeArmed := by unfold generateMuxTable; rfl
@[simp] theorem generateMuxTable_store (s : State) : (generateMuxTable s).store = s.store := by unfold generateMuxTable; rfl
@[simp] theorem generateMuxTable_swapReq (s : State) : (generateMuxTable s).swapReq = s.swapReq := by unfold generateMuxTable; rfl
@[simp] theorem generateMuxTable_copyReq (s : State) : (generateMuxTable s).copyReq = s.copyReq := by unfold generateMuxTable; rfl
@[simp] theorem generateMuxTable_copyBusy (s : State) : (generateMuxTable s).copyBusy = s.copyBusy := by unfold generateMuxTable; rfl
@[simp] theorem generateMuxTable_copyIdx (s : State) : (generateMuxTable s).copyIdx = s.copyIdx := by unfold generateMuxTable; rfl
@[simp] theorem generateMuxTable_shRem (s : State) : (generateMuxTable s).shRem = s.shRem := by unfold generateMuxTable; rfl
@[simp] theorem generateMuxTable_shSrc (s : State) : (generateMuxTable s).shSrc = s.shSrc := by unfold generateMuxTable; rfl
@[simp] theorem generateMuxTable_shSlot (s : State) : (generateMuxTable s).shSlot = s.shSlot := by unfold generateMuxTable; rfl
@[simp] theorem generateMuxTable_muxPend (s : State) : (generateMuxTable s).muxPend = s.muxPend := by unfold generateMuxTable; rfl
@[simp] theorem generateMuxTable_muxLvl (s : State) : (generateMuxTable s).muxLvl = s.muxLvl := by unfold generateMuxTable; rfl
@[simp] theorem generateMuxTable_dataLvl (s : State) : (generateMuxTable s).dataLvl = s.dataLvl := by unfold generateMuxTable; rfl
@[simp] theorem generateMuxTable_clkLvl (s : State) : (generateMuxTable s).clkLvl = s.clkLvl := by unfold generateMuxTable; rfl
@[simp] theorem generateMuxTable_latLvl (s : State) : (generateMuxTable s).latLvl = s.latLvl := by unfold generateMuxTable; rfl
@[simp] theorem generateMuxTable_trace (s : State) : (generateMuxTable s).trace = s.trace := by unfold generateMuxTable; rfl
@[simp] theorem generateMuxTable_panelSr (s : State) : (generateMuxTable s).panelSr = s.panelSr := by unfold generateMuxTable; rfl
@[simp] theorem generateMuxTable_panelLr (s : State) : (generateMuxTable s).panelLr = s.panelLr := by unfold generateMuxTable; rfl
@[simp] theorem generateMuxTable_par (s : State) : (generateMuxTable s).par = s.par := by unfold generateMuxTable; rfl
@[simp] theorem generateMuxTable_hostq (s : State) : (generateMuxTable s).hostq = s.hostq := by unfold generateMuxTable; rfl
@[simp] theorem generateMuxTable_rdata (s : State) : (generateMuxTable s).rdata = s.rdata := by unfold generateMuxTable; rfl
@[simp] theorem generateMuxTable_turns (s : State) : (generateMuxTable s).turns = s.turns := by unfold generateMuxTable; rfl
@[simp] theorem generateMuxTable_turn (s : State) : (generateMuxTable s).turn = s.turn := by unfold generateMuxTable; rfl
@[simp] theorem generateMuxTable_draws (s : State) : (generateMuxTable s).draws = s.draws := by unfold generateMuxTable; rfl

/-! ### loadTiming -/

@[simp] theorem loadTiming_run (s : State) : (loadTiming s).run = s.run := by unfold loadTiming; rfl
@[simp] theorem loadTiming_db (s : State) : (loadTiming s).db = s.db := by unfold loadTiming; rfl
@[simp] theorem loadTiming_front (s : State) : (loadTiming s).front = s.front := by unfold loadTiming; rfl
@[simp] theorem loadTiming_bright (s : State) : (loadTiming s).bright = s.bright := by unfold loadTiming; rfl
@[simp] theorem loadTiming_scanUs (s : State) : (loadTiming s).scanUs = s.scanUs := by unfold loadTiming; rfl
@[simp] theorem loadTiming_reloadPending (s : State) : (loadTiming s).reloadPending = s.reloadPending := by unfold loadTiming; rfl
@[simp] theorem loadTiming_pw (s : State) : (loadTiming s).pw = s.pw := by unfold loadTiming; rfl
@[simp] theorem loadTiming_ph (s : State) : (loadTiming s).ph = s.ph := by unfold loadTiming; rfl
@[simp] theorem loadTiming_nx (s : State) : (loadTiming s).nx = s.nx := by unfold loadTiming; rfl
@[simp] theorem loadTiming_ny (s : State) : (loadTiming s).ny = s.ny := by unfold loadTiming; rfl
@[simp] theorem loadTiming_nrows (s : State) : (loadTiming s).nrows = s.nrows := by unfold loadTiming; rfl
@[simp] theorem loadTiming_muxcnt (s : State) : (loadTiming s).muxcnt = s.muxcnt := by unfold loadTiming; rfl
@[simp] theorem loadTiming_selLvl (s : State) : (loadTiming s).selLvl = s.selLvl := by unfold loadTiming; rfl
@[simp] theorem loadTiming_dataInv (s : State) : (loadTiming s).dataInv = s.dataInv := by unfold loadTiming; rfl
@[simp] theorem loadTiming_oeLow (s : State) : (loadTiming s).oeLow = s.oeLow := by unfold loadTiming; rfl
@[simp] theorem loadTiming_cfgerr (s : State) : (loadTiming s).cfgerr = s.cfgerr := by unfold loadTiming; rfl
@[simp] theorem loadTiming_berr (s : State) : (loadTiming s).berr = s.berr := by unfold loadTiming; rfl
@[simp] theorem loadTiming_muxset (s : State) : (loadTiming s).muxset = s.muxset := by unfold loadTiming; rfl
@[simp] theorem loadTiming_muxclr (s : State) : (loadTiming s).muxclr = s.muxclr := by unfold loadTiming; rfl
@[simp] theorem loadTiming_tickcnt (s : State) : (loadTiming s).tickcnt = s.tickcnt := by unfold loadTiming; rfl
@[simp] theorem loadTiming_framecnt (s : State) : (loadTiming s).framecnt = s.framecnt := by unfold loadTiming; rfl
@[simp] theorem loadTiming_onCnt (s : State) : (loadTiming s).onCnt = s.onCnt := by unfold loadTiming; rfl
@[simp] theorem loadTiming_row (s : State) : (loadTiming s).row = s.row := by unfold loadTiming; rfl
@[simp] theorem loadTiming_phase (s : State) : (loadTiming s).phase = s.phase := by unfold loadTiming; rfl
@[simp] theorem loadTiming_busy (s : State) : (loadTiming s).busy = s.busy := by unfold loadTiming; rfl
@[simp] theorem loadTiming_nm (s : State) : (loadTiming s).nm = s.nm := by unfold loadTiming; rfl
@[simp] theorem loadTiming_cnt (s : State) : (loadTiming s).cnt = s.cnt := by unfold loadTiming; rfl
@[simp] theorem loadTiming_oeArmed (s : State) : (loadTiming s).oeArmed = s.oeArmed := by unfold loadTiming; rfl
@[simp] theorem loadTiming_store (s : State) : (loadTiming s).store = s.store := by unfold loadTiming; rfl
@[simp] theorem loadTiming_swapReq (s : State) : (loadTiming s).swapReq = s.swapReq := by unfold loadTiming; rfl
@[simp] theorem loadTiming_copyReq (s : State) : (loadTiming s).copyReq = s.copyReq := by unfold loadTiming; rfl
@[simp] theorem loadTiming_copyBusy (s : State) : (loadTiming s).copyBusy = s.copyBusy := by unfold loadTiming; rfl
@[simp] theorem loadTiming_copyIdx (s : State) : (loadTiming s).copyIdx = s.copyIdx := by unfold loadTiming; rfl
@[simp] theorem loadTiming_shRem (s : State) : (loadTiming s).shRem = s.shRem := by unfold loadTiming; rfl
@[simp] theorem loadTiming_shSrc (s : State) : (loadTiming s).shSrc = s.shSrc := by unfold loadTiming; rfl
@[simp] theorem loadTiming_shSlot (s : State) : (loadTiming s).shSlot = s.shSlot := by unfold loadTiming; rfl
@[simp] theorem loadTiming_muxPend (s : State) : (loadTiming s).muxPend = s.muxPend := by unfold loadTiming; rfl
@[simp] theorem loadTiming_muxLvl (s : State) : (loadTiming s).muxLvl = s.muxLvl := by unfold loadTiming; rfl
@[simp] theorem loadTiming_dataLvl (s : State) : (loadTiming s).dataLvl = s.dataLvl := by unfold loadTiming; rfl
@[simp] theorem loadTiming_clkLvl (s : State) : (loadTiming s).clkLvl = s.clkLvl := by unfold loadTiming; rfl
@[simp] theorem loadTiming_latLvl (s : State) : (loadTiming s).latLvl = s.latLvl := by unfold loadTiming; rfl
@[simp] theorem loadTiming_trace (s : State) : (loadTiming s).trace = s.trace := by unfold loadTiming; rfl
@[simp] theorem loadTiming_panelSr (s : State) : (loadTiming s).panelSr = s.panelSr := by unfold loadTiming; rfl
@[simp] theorem loadTiming_panelLr (s : State) : (loadTiming s).panelLr = s.panelLr := by unfold loadTiming; rfl
@[simp] theorem loadTiming_par (s : State) : (loadTiming s).par = s.par := by unfold loadTiming; rfl
@[simp] theorem loadTiming_hostq (s : State) : (loadTiming s).hostq = s.hostq := by unfold loadTiming; rfl
@[simp] theorem loadTiming_rdata (s : State) : (loadTiming s).rdata = s.rdata := by unfold loadTiming; rfl
@[simp] theorem loadTiming_turns (s : State) : (loadTiming s).turns = s.turns := by unfold loadTiming; rfl
@[simp] theorem loadTiming_turn (s : State) : (loadTiming s).turn = s.turn := by unfold loadTiming; rfl
@[simp] theorem loadTiming_draws (s : State) : (loadTiming s).draws = s.draws := by unfold loadTiming; rfl

/-! ### fitPanel -/

@[simp] theorem fitPanel_run (s : State) : (fitPanel s).run = s.run := by unfold fitPanel; split <;> rfl
@[simp] theorem fitPanel_db (s : State) : (fitPanel s).db = s.db := by unfold fitPanel; split <;> rfl
@[simp] theorem fitPanel_front (s : State) : (fitPanel s).front = s.front := by unfold fitPanel; split <;> rfl
@[simp] theorem fitPanel_bright (s : State) : (fitPanel s).bright = s.bright := by unfold fitPanel; split <;> rfl
@[simp] theorem fitPanel_scanUs (s : State) : (fitPanel s).scanUs = s.scanUs := by unfold fitPanel; split <;> rfl
@[simp] theorem fitPanel_div (s : State) : (fitPanel s).div = s.div := by unfold fitPanel; split <;> rfl
@[simp] theorem fitPanel_period (s : State) : (fitPanel s).period = s.period := by unfold fitPanel; split <;> rfl
@[simp] theorem fitPanel_achUs (s : State) : (fitPanel s).achUs = s.achUs := by unfold fitPanel; split <;> rfl
@[simp] theorem fitPanel_reloadPending (s : State) : (fitPanel s).reloadPending = s.reloadPending := by unfold fitPanel; split <;> rfl
@[simp] theorem fitPanel_pw (s : State) : (fitPanel s).pw = s.pw := by unfold fitPanel; split <;> rfl
@[simp] theorem fitPanel_ph (s : State) : (fitPanel s).ph = s.ph := by unfold fitPanel; split <;> rfl
@[simp] theorem fitPanel_nx (s : State) : (fitPanel s).nx = s.nx := by unfold fitPanel; split <;> rfl
@[simp] theorem fitPanel_ny (s : State) : (fitPanel s).ny = s.ny := by unfold fitPanel; split <;> rfl
@[simp] theorem fitPanel_nrows (s : State) : (fitPanel s).nrows = s.nrows := by unfold fitPanel; split <;> rfl
@[simp] theorem fitPanel_muxcnt (s : State) : (fitPanel s).muxcnt = s.muxcnt := by unfold fitPanel; split <;> rfl
@[simp] theorem fitPanel_selLvl (s : State) : (fitPanel s).selLvl = s.selLvl := by unfold fitPanel; split <;> rfl
@[simp] theorem fitPanel_dataInv (s : State) : (fitPanel s).dataInv = s.dataInv := by unfold fitPanel; split <;> rfl
@[simp] theorem fitPanel_oeLow (s : State) : (fitPanel s).oeLow = s.oeLow := by unfold fitPanel; split <;> rfl
@[simp] theorem fitPanel_cfgerr (s : State) : (fitPanel s).cfgerr = s.cfgerr := by unfold fitPanel; split <;> rfl
@[simp] theorem fitPanel_berr (s : State) : (fitPanel s).berr = s.berr := by unfold fitPanel; split <;> rfl
@[simp] theorem fitPanel_muxset (s : State) : (fitPanel s).muxset = s.muxset := by unfold fitPanel; split <;> rfl
@[simp] theorem fitPanel_muxclr (s : State) : (fitPanel s).muxclr = s.muxclr := by unfold fitPanel; split <;> rfl
@[simp] theorem fitPanel_tickcnt (s : State) : (fitPanel s).tickcnt = s.tickcnt := by unfold fitPanel; split <;> rfl
@[simp] theorem fitPanel_framecnt (s : State) : (fitPanel s).framecnt = s.framecnt := by unfold fitPanel; split <;> rfl
@[simp] theorem fitPanel_onCnt (s : State) : (fitPanel s).onCnt = s.onCnt := by unfold fitPanel; split <;> rfl
@[simp] theorem fitPanel_row (s : State) : (fitPanel s).row = s.row := by unfold fitPanel; split <;> rfl
@[simp] theorem fitPanel_phase (s : State) : (fitPanel s).phase = s.phase := by unfold fitPanel; split <;> rfl
@[simp] theorem fitPanel_busy (s : State) : (fitPanel s).busy = s.busy := by unfold fitPanel; split <;> rfl
@[simp] theorem fitPanel_nm (s : State) : (fitPanel s).nm = s.nm := by unfold fitPanel; split <;> rfl
@[simp] theorem fitPanel_cnt (s : State) : (fitPanel s).cnt = s.cnt := by unfold fitPanel; split <;> rfl
@[simp] theorem fitPanel_oeArmed (s : State) : (fitPanel s).oeArmed = s.oeArmed := by unfold fitPanel; split <;> rfl
@[simp] theorem fitPanel_store (s : State) : (fitPanel s).store = s.store := by unfold fitPanel; split <;> rfl
@[simp] theorem fitPanel_swapReq (s : State) : (fitPanel s).swapReq = s.swapReq := by unfold fitPanel; split <;> rfl
@[simp] theorem fitPanel_copyReq (s : State) : (fitPanel s).copyReq = s.copyReq := by unfold fitPanel; split <;> rfl
@[simp] theorem fitPanel_copyBusy (s : State) : (fitPanel s).copyBusy = s.copyBusy := by unfold fitPanel; split <;> rfl
@[simp] theorem fitPanel_copyIdx (s : State) : (fitPanel s).copyIdx = s.copyIdx := by unfold fitPanel; split <;> rfl
@[simp] theorem fitPanel_shRem (s : State) : (fitPanel s).shRem = s.shRem := by unfold fitPanel; split <;> rfl
@[simp] theorem fitPanel_shSrc (s : State) : (fitPanel s).shSrc = s.shSrc := by unfold fitPanel; split <;> rfl
@[simp] theorem fitPanel_shSlot (s : State) : (fitPanel s).shSlot = s.shSlot := by unfold fitPanel; split <;> rfl
@[simp] theorem fitPanel_muxPend (s : State) : (fitPanel s).muxPend = s.muxPend := by unfold fitPanel; split <;> rfl
@[simp] theorem fitPanel_muxLvl (s : State) : (fitPanel s).muxLvl = s.muxLvl := by unfold fitPanel; split <;> rfl
@[simp] theorem fitPanel_dataLvl (s : State) : (fitPanel s).dataLvl = s.dataLvl := by unfold fitPanel; split <;> rfl
@[simp] theorem fitPanel_clkLvl (s : State) : (fitPanel s).clkLvl = s.clkLvl := by unfold fitPanel; split <;> rfl
@[simp] theorem fitPanel_latLvl (s : State) : (fitPanel s).latLvl = s.latLvl := by unfold fitPanel; split <;> rfl
@[simp] theorem fitPanel_trace (s : State) : (fitPanel s).trace = s.trace := by unfold fitPanel; split <;> rfl
@[simp] theorem fitPanel_par (s : State) : (fitPanel s).par = s.par := by unfold fitPanel; split <;> rfl
@[simp] theorem fitPanel_hostq (s : State) : (fitPanel s).hostq = s.hostq := by unfold fitPanel; split <;> rfl
@[simp] theorem fitPanel_rdata (s : State) : (fitPanel s).rdata = s.rdata := by unfold fitPanel; split <;> rfl
@[simp] theorem fitPanel_turns (s : State) : (fitPanel s).turns = s.turns := by unfold fitPanel; split <;> rfl
@[simp] theorem fitPanel_turn (s : State) : (fitPanel s).turn = s.turn := by unfold fitPanel; split <;> rfl

/-! ### clearSequencer -/

@[simp] theorem clearSequencer_run (s : State) : (clearSequencer s).run = s.run := rfl
@[simp] theorem clearSequencer_db (s : State) : (clearSequencer s).db = s.db := rfl
@[simp] theorem clearSequencer_front (s : State) : (clearSequencer s).front = s.front := rfl
@[simp] theorem clearSequencer_bright (s : State) : (clearSequencer s).bright = s.bright := rfl
@[simp] theorem clearSequencer_scanUs (s : State) : (clearSequencer s).scanUs = s.scanUs := rfl
@[simp] theorem clearSequencer_div (s : State) : (clearSequencer s).div = s.div := rfl
@[simp] theorem clearSequencer_period (s : State) : (clearSequencer s).period = s.period := rfl
@[simp] theorem clearSequencer_achUs (s : State) : (clearSequencer s).achUs = s.achUs := rfl
@[simp] theorem clearSequencer_pw (s : State) : (clearSequencer s).pw = s.pw := rfl
@[simp] theorem clearSequencer_ph (s : State) : (clearSequencer s).ph = s.ph := rfl
@[simp] theorem clearSequencer_nx (s : State) : (clearSequencer s).nx = s.nx := rfl
@[simp] theorem clearSequencer_ny (s : State) : (clearSequencer s).ny = s.ny := rfl
@[simp] theorem clearSequencer_nrows (s : State) : (clearSequencer s).nrows = s.nrows := rfl
@[simp] theorem clearSequencer_muxcnt (s : State) : (clearSequencer s).muxcnt = s.muxcnt := rfl
@[simp] theorem clearSequencer_selLvl (s : State) : (clearSequencer s).selLvl = s.selLvl := rfl
@[simp] theorem clearSequencer_dataInv (s : State) : (clearSequencer s).dataInv = s.dataInv := rfl
@[simp] theorem clearSequencer_oeLow (s : State) : (clearSequencer s).oeLow = s.oeLow := rfl
@[simp] theorem clearSequencer_cfgerr (s : State) : (clearSequencer s).cfgerr = s.cfgerr := rfl
@[simp] theorem clearSequencer_berr (s : State) : (clearSequencer s).berr = s.berr := rfl
@[simp] theorem clearSequencer_muxset (s : State) : (clearSequencer s).muxset = s.muxset := rfl
@[simp] theorem clearSequencer_muxclr (s : State) : (clearSequencer s).muxclr = s.muxclr := rfl
@[simp] theorem clearSequencer_tickcnt (s : State) : (clearSequencer s).tickcnt = s.tickcnt := rfl
@[simp] theorem clearSequencer_framecnt (s : State) : (clearSequencer s).framecnt = s.framecnt := rfl
@[simp] theorem clearSequencer_store (s : State) : (clearSequencer s).store = s.store := rfl
@[simp] theorem clearSequencer_swapReq (s : State) : (clearSequencer s).swapReq = s.swapReq := rfl
@[simp] theorem clearSequencer_copyReq (s : State) : (clearSequencer s).copyReq = s.copyReq := rfl
@[simp] theorem clearSequencer_copyBusy (s : State) : (clearSequencer s).copyBusy = s.copyBusy := rfl
@[simp] theorem clearSequencer_copyIdx (s : State) : (clearSequencer s).copyIdx = s.copyIdx := rfl
@[simp] theorem clearSequencer_shRem (s : State) : (clearSequencer s).shRem = s.shRem := rfl
@[simp] theorem clearSequencer_shSrc (s : State) : (clearSequencer s).shSrc = s.shSrc := rfl
@[simp] theorem clearSequencer_shSlot (s : State) : (clearSequencer s).shSlot = s.shSlot := rfl
@[simp] theorem clearSequencer_muxLvl (s : State) : (clearSequencer s).muxLvl = s.muxLvl := rfl
@[simp] theorem clearSequencer_dataLvl (s : State) : (clearSequencer s).dataLvl = s.dataLvl := rfl
@[simp] theorem clearSequencer_clkLvl (s : State) : (clearSequencer s).clkLvl = s.clkLvl := rfl
@[simp] theorem clearSequencer_latLvl (s : State) : (clearSequencer s).latLvl = s.latLvl := rfl
@[simp] theorem clearSequencer_trace (s : State) : (clearSequencer s).trace = s.trace := rfl
@[simp] theorem clearSequencer_panelSr (s : State) : (clearSequencer s).panelSr = s.panelSr := rfl
@[simp] theorem clearSequencer_panelLr (s : State) : (clearSequencer s).panelLr = s.panelLr := rfl
@[simp] theorem clearSequencer_par (s : State) : (clearSequencer s).par = s.par := rfl
@[simp] theorem clearSequencer_hostq (s : State) : (clearSequencer s).hostq = s.hostq := rfl
@[simp] theorem clearSequencer_rdata (s : State) : (clearSequencer s).rdata = s.rdata := rfl
@[simp] theorem clearSequencer_turns (s : State) : (clearSequencer s).turns = s.turns := rfl
@[simp] theorem clearSequencer_turn (s : State) : (clearSequencer s).turn = s.turn := rfl
@[simp] theorem clearSequencer_draws (s : State) : (clearSequencer s).draws = s.draws := rfl

/-! ### setDoubleBuffer -/

@[simp] theorem setDoubleBuffer_run (db : Bool) (s : State) : (setDoubleBuffer db s).run = s.run := rfl
@[simp] theorem setDoubleBuffer_bright (db : Bool) (s : State) : (setDoubleBuffer db s).bright = s.bright := rfl
@[simp] theorem setDoubleBuffer_scanUs (db : Bool) (s : State) : (setDoubleBuffer db s).scanUs = s.scanUs := rfl
@[simp] theorem setDoubleBuffer_div (db : Bool) (s : State) : (setDoubleBuffer db s).div = s.div := rfl
@[simp] theorem setDoubleBuffer_period (db : Bool) (s : State) : (setDoubleBuffer db s).period = s.period := rfl
@[simp] theorem setDoubleBuffer_achUs (db : Bool) (s : State) : (setDoubleBuffer db s).achUs = s.achUs := rfl
@[simp] theorem setDoubleBuffer_reloadPending (db : Bool) (s : State) : (setDoubleBuffer db s).reloadPending = s.reloadPending := rfl
@[simp] theorem setDoubleBuffer_pw (db : Bool) (s : State) : (setDoubleBuffer db s).pw = s.pw := rfl
@[simp] theorem setDoubleBuffer_ph (db : Bool) (s : State) : (setDoubleBuffer db s).ph = s.ph := rfl
@[simp] theorem setDoubleBuffer_nx (db : Bool) (s : State) : (setDoubleBuffer db s).nx = s.nx := rfl
@[simp] theorem setDoubleBuffer_ny (db : Bool) (s : State) : (setDoubleBuffer db s).ny = s.ny := rfl
@[simp] theorem setDoubleBuffer_nrows (db : Bool) (s : State) : (setDoubleBuffer db s).nrows = s.nrows := rfl
@[simp] theorem setDoubleBuffer_muxcnt (db : Bool) (s : State) : (setDoubleBuffer db s).muxcnt = s.muxcnt := rfl
@[simp] theorem setDoubleBuffer_selLvl (db : Bool) (s : State) : (setDoubleBuffer db s).selLvl = s.selLvl := rfl
@[simp] theorem setDoubleBuffer_dataInv (db : Bool) (s : State) : (setDoubleBuffer db s).dataInv = s.dataInv := rfl
@[simp] theorem setDoubleBuffer_oeLow (db : Bool) (s : State) : (setDoubleBuffer db s).oeLow = s.oeLow := rfl
@[simp] theorem setDoubleBuffer_cfgerr (db : Bool) (s : State) : (setDoubleBuffer db s).cfgerr = s.cfgerr := rfl
@[simp] theorem setDoubleBuffer_berr (db : Bool) (s : State) : (setDoubleBuffer db s).berr = s.berr := rfl
@[simp] theorem setDoubleBuffer_muxset (db : Bool) (s : State) : (setDoubleBuffer db s).muxset = s.muxset := rfl
@[simp] theorem setDoubleBuffer_muxclr (db : Bool) (s : State) : (setDoubleBuffer db s).muxclr = s.muxclr := rfl
@[simp] theorem setDoubleBuffer_tickcnt (db : Bool) (s : State) : (setDoubleBuffer db s).tickcnt = s.tickcnt := rfl
@[simp] theorem setDoubleBuffer_framecnt (db : Bool) (s : State) : (setDoubleBuffer db s).framecnt = s.framecnt := rfl
@[simp] theorem setDoubleBuffer_onCnt (db : Bool) (s : State) : (setDoubleBuffer db s).onCnt = s.onCnt := rfl
@[simp] theorem setDoubleBuffer_row (db : Bool) (s : State) : (setDoubleBuffer db s).row = s.row := rfl
@[simp] theorem setDoubleBuffer_phase (db : Bool) (s : State) : (setDoubleBuffer db s).phase = s.phase := rfl
@[simp] theorem setDoubleBuffer_busy (db : Bool) (s : State) : (setDoubleBuffer db s).busy = s.busy := rfl
@[simp] theorem setDoubleBuffer_nm (db : Bool) (s : State) : (setDoubleBuffer db s).nm = s.nm := rfl
@[simp] theorem setDoubleBuffer_cnt (db : Bool) (s : State) : (setDoubleBuffer db s).cnt = s.cnt := rfl
@[simp] theorem setDoubleBuffer_oeArmed (db : Bool) (s : State) : (setDoubleBuffer db s).oeArmed = s.oeArmed := rfl
@[simp] theorem setDoubleBuffer_store (db : Bool) (s : State) : (setDoubleBuffer db s).store = s.store := rfl
@[simp] theorem setDoubleBuffer_swapReq (db : Bool) (s : State) : (setDoubleBuffer db s).swapReq = s.swapReq := rfl
@[simp] theorem setDoubleBuffer_copyReq (db : Bool) (s : State) : (setDoubleBuffer db s).copyReq = s.copyReq := rfl
@[simp] theorem setDoubleBuffer_copyBusy (db : Bool) (s : State) : (setDoubleBuffer db s).copyBusy = s.copyBusy := rfl
@[simp] theorem setDoubleBuffer_copyIdx (db : Bool) (s : State) : (setDoubleBuffer db s).copyIdx = s.copyIdx := rfl
@[simp] theorem setDoubleBuffer_shRem (db : Bool) (s : State) : (setDoubleBuffer db s).shRem = s.shRem := rfl
@[simp] theorem setDoubleBuffer_shSrc (db : Bool) (s : State) : (setDoubleBuffer db s).shSrc = s.shSrc := rfl
@[simp] theorem setDoubleBuffer_shSlot (db : Bool) (s : State) : (setDoubleBuffer db s).shSlot = s.shSlot := rfl
@[simp] theorem setDoubleBuffer_muxPend (db : Bool) (s : State) : (setDoubleBuffer db s).muxPend = s.muxPend := rfl
@[simp] theorem setDoubleBuffer_muxLvl (db : Bool) (s : State) : (setDoubleBuffer db s).muxLvl = s.muxLvl := rfl
@[simp] theorem setDoubleBuffer_dataLvl (db : Bool) (s : State) : (setDoubleBuffer db s).dataLvl = s.dataLvl := rfl
@[simp] theorem setDoubleBuffer_clkLvl (db : Bool) (s : State) : (setDoubleBuffer db s).clkLvl = s.clkLvl := rfl
@[simp] theorem setDoubleBuffer_latLvl (db : Bool) (s : State) : (setDoubleBuffer db s).latLvl = s.latLvl := rfl
@[simp] theorem setDoubleBuffer_trace (db : Bool) (s : State) : (setDoubleBuffer db s).trace = s.trace := rfl
@[simp] theorem setDoubleBuffer_panelSr (db : Bool) (s : State) : (setDoubleBuffer db s).panelSr = s.panelSr := rfl
@[simp] theorem setDoubleBuffer_panelLr (db : Bool) (s : State) : (setDoubleBuffer db s).panelLr = s.panelLr := rfl
@[simp] theorem setDoubleBuffer_par (db : Bool) (s : State) : (setDoubleBuffer db s).par = s.par := rfl
@[simp] theorem setDoubleBuffer_hostq (db : Bool) (s : State) : (setDoubleBuffer db s).hostq = s.hostq := rfl
@[simp] theorem setDoubleBuffer_rdata (db : Bool) (s : State) : (setDoubleBuffer db s).rdata = s.rdata := rfl
@[simp] theorem setDoubleBuffer_turns (db : Bool) (s : State) : (setDoubleBuffer db s).turns = s.turns := rfl
@[simp] theorem setDoubleBuffer_turn (db : Bool) (s : State) : (setDoubleBuffer db s).turn = s.turn := rfl
@[simp] theorem setDoubleBuffer_draws (db : Bool) (s : State) : (setDoubleBuffer db s).draws = s.draws := rfl

/-! ### shiftRow -/

@[simp] theorem shiftRow_run (k : Fin 2) (b : Nat) (s : State) : (shiftRow k b s).run = s.run := by unfold shiftRow; cases s.par.backend; exacts [emitAll_run _ s, rfl]
@[simp] theorem shiftRow_db (k : Fin 2) (b : Nat) (s : State) : (shiftRow k b s).db = s.db := by unfold shiftRow; cases s.par.backend; exacts [emitAll_db _ s, rfl]
@[simp] theorem shiftRow_front (k : Fin 2) (b : Nat) (s : State) : (shiftRow k b s).front = s.front := by unfold shiftRow; cases s.par.backend; exacts [emitAll_front _ s, rfl]
@[simp] theorem shiftRow_bright (k : Fin 2) (b : Nat) (s : State) : (shiftRow k b s).bright = s.bright := by unfold shiftRow; cases s.par.backend; exacts [emitAll_bright _ s, rfl]
@[simp] theorem shiftRow_scanUs (k : Fin 2) (b : Nat) (s : State) : (shiftRow k b s).scanUs = s.scanUs := by unfold shiftRow; cases s.par.backend; exacts [emitAll_scanUs _ s, rfl]
@[simp] theorem shiftRow_div (k : Fin 2) (b : Nat) (s : State) : (shiftRow k b s).div = s.div := by unfold shiftRow; cases s.par.backend; exacts [emitAll_div _ s, rfl]
@[simp] theorem shiftRow_period (k : Fin 2) (b : Nat) (s : State) : (shiftRow k b s).period = s.period := by unfold shiftRow; cases s.par.backend; exacts [emitAll_period _ s, rfl]
@[simp] theorem shiftRow_achUs (k : Fin 2) (b : Nat) (s : State) : (shiftRow k b s).achUs = s.achUs := by unfold shiftRow; cases s.par.backend; exacts [emitAll_achUs _ s, rfl]
@[simp] theorem shiftRow_reloadPending (k : Fin 2) (b : Nat) (s : State) : (shiftRow k b s).reloadPending = s.reloadPending := by unfold shiftRow; cases s.par.backend; exacts [emitAll_reloadPending _ s, rfl]
@[simp] theorem shiftRow_pw (k : Fin 2) (b : Nat) (s : State) : (shiftRow k b s).pw = s.pw := by unfold shiftRow; cases s.par.backend; exacts [emitAll_pw _ s, rfl]
@[simp] theorem shiftRow_ph (k : Fin 2) (b : Nat) (s : State) : (shiftRow k b s).ph = s.ph := by unfold shiftRow; cases s.par.backend; exacts [emitAll_ph _ s, rfl]
@[simp] theorem shiftRow_nx (k : Fin 2) (b : Nat) (s : State) : (shiftRow k b s).nx = s.nx := by unfold shiftRow; cases s.par.backend; exacts [emitAll_nx _ s, rfl]
@[simp] theorem shiftRow_ny (k : Fin 2) (b : Nat) (s : State) : (shiftRow k b s).ny = s.ny := by unfold shiftRow; cases s.par.backend; exacts [emitAll_ny _ s, rfl]
@[simp] theorem shiftRow_nrows (k : Fin 2) (b : Nat) (s : State) : (shiftRow k b s).nrows = s.nrows := by unfold shiftRow; cases s.par.backend; exacts [emitAll_nrows _ s, rfl]
@[simp] theorem shiftRow_muxcnt (k : Fin 2) (b : Nat) (s : State) : (shiftRow k b s).muxcnt = s.muxcnt := by unfold shiftRow; cases s.par.backend; exacts [emitAll_muxcnt _ s, rfl]
@[simp] theorem shiftRow_selLvl (k : Fin 2) (b : Nat) (s : State) : (shiftRow k b s).selLvl = s.selLvl := by unfold shiftRow; cases s.par.backend; exacts [emitAll_selLvl _ s, rfl]
@[simp] theorem shiftRow_dataInv (k : Fin 2) (b : Nat) (s : State) : (shiftRow k b s).dataInv = s.dataInv := by unfold shiftRow; cases s.par.backend; exacts [emitAll_dataInv _ s, rfl]
@[simp] theorem shiftRow_oeLow (k : Fin 2) (b : Nat) (s : State) : (shiftRow k b s).oeLow = s.oeLow := by unfold shiftRow; cases s.par.backend; exacts [emitAll_oeLow _ s, rfl]
@[simp] theorem shiftRow_cfgerr (k : Fin 2) (b : Nat) (s : State) : (shiftRow k b s).cfgerr = s.cfgerr := by unfold shiftRow; cases s.par.backend; exacts [emitAll_cfgerr _ s, rfl]
@[simp] theorem shiftRow_berr (k : Fin 2) (b : Nat) (s : State) : (shiftRow k b s).berr = s.berr := by unfold shiftRow; cases s.par.backend; exacts [emitAll_berr _ s, rfl]
@[simp] theorem shiftRow_muxset (k : Fin 2) (b : Nat) (s : State) : (shiftRow k b s).muxset = s.muxset := by unfold shiftRow; cases s.par.backend; exacts [emitAll_muxset _ s, rfl]
@[simp] theorem shiftRow_muxclr (k : Fin 2) (b : Nat) (s : State) : (shiftRow k b s).muxclr = s.muxclr := by unfold shiftRow; cases s.par.backend; exacts [emitAll_muxclr _ s, rfl]
@[simp] theorem shiftRow_tickcnt (k : Fin 2) (b : Nat) (s : State) : (shiftRow k b s).tickcnt = s.tickcnt := by unfold shiftRow; cases s.par.backend; exacts [emitAll_tickcnt _ s, rfl]
@[simp] theorem shiftRow_framecnt (k : Fin 2) (b : Nat) (s : State) : (shiftRow k b s).framecnt = s.framecnt := by unfold shiftRow; cases s.par.backend; exacts [emitAll_framecnt _ s, rfl]
@[simp] theorem shiftRow_onCnt (k : Fin 2) (b : Nat) (s : State) : (shiftRow k b s).onCnt = s.onCnt := by unfold shiftRow; cases s.par.backend; exacts [emitAll_onCnt _ s, rfl]
@[simp] theorem shiftRow_row (k : Fin 2) (b : Nat) (s : State) : (shiftRow k b s).row = s.row := by unfold shiftRow; cases s.par.backend; exacts [emitAll_row _ s, rfl]
@[simp] theorem shiftRow_phase (k : Fin 2) (b : Nat) (s : State) : (shiftRow k b s).phase = s.phase := by unfold shiftRow; cases s.par.backend; exacts [emitAll_phase _ s, rfl]
@[simp] theorem shiftRow_busy (k : Fin 2) (b : Nat) (s : State) : (shiftRow k b s).busy = s.busy := by unfold shiftRow; cases s.par.backend; exacts [emitAll_busy _ s, rfl]
@[simp] theorem shiftRow_nm (k : Fin 2) (b : Nat) (s : State) : (shiftRow k b s).nm = s.nm := by unfold shiftRow; cases s.par.backend; exacts [emitAll_nm _ s, rfl]
@[simp] theorem shiftRow_cnt (k : Fin 2) (b : Nat) (s : State) : (shiftRow k b s).cnt = s.cnt := by unfold shiftRow; cases s.par.backend; exacts [emitAll_cnt _ s, rfl]
@[simp] theorem shiftRow_oeArmed (k : Fin 2) (b : Nat) (s : State) : (shiftRow k b s).oeArmed = s.oeArmed := by unfold shiftRow; cases s.par.backend; exacts [emitAll_oeArmed _ s, rfl]
@[simp] theorem shiftRow_store (k : Fin 2) (b : Nat) (s : State) : (shiftRow k b s).store = s.store := by unfold shiftRow; cases s.par.backend; exacts [emitAll_store _ s, rfl]
@[simp] theorem shiftRow_swapReq (k : Fin 2) (b : Nat) (s : State) : (shiftRow k b s).swapReq = s.swapReq := by unfold shiftRow; cases s.par.backend; exacts [emitAll_swapReq _ s, rfl]
@[simp] theorem shiftRow_copyReq (k : Fin 2) (b : Nat) (s : State) : (shiftRow k b s).copyReq = s.copyReq := by unfold shiftRow; cases s.par.backend; exacts [emitAll_copyReq _ s, rfl]
@[simp] theorem shiftRow_copyBusy (k : Fin 2) (b : Nat) (s : State) : (shiftRow k b s).copyBusy = s.copyBusy := by unfold shiftRow; cases s.par.backend; exacts [emitAll_copyBusy _ s, rfl]
@[simp] theorem shiftRow_copyIdx (k : Fin 2) (b : Nat) (s : State) : (shiftRow k b s).copyIdx = s.copyIdx := by unfold shiftRow; cases s.par.backend; exacts [emitAll_copyIdx _ s, rfl]
@[simp] theorem shiftRow_muxPend (k : Fin 2) (b : Nat) (s : State) : (shiftRow k b s).muxPend = s.muxPend := by unfold shiftRow; cases s.par.backend; exacts [emitAll_muxPend _ s, rfl]
@[simp] theorem shiftRow_muxLvl (k : Fin 2) (b : Nat) (s : State) : (shiftRow k b s).muxLvl = s.muxLvl := by unfold shiftRow; cases s.par.backend; exacts [emitAll_muxLvl _ s, rfl]
@[simp] theorem shiftRow_par (k : Fin 2) (b : Nat) (s : State) : (shiftRow k b s).par = s.par := by unfold shiftRow; cases s.par.backend; exacts [emitAll_par _ s, rfl]
@[simp] theorem shiftRow_hostq (k : Fin 2) (b : Nat) (s : State) : (shiftRow k b s).hostq = s.hostq := by unfold shiftRow; cases s.par.backend; exacts [emitAll_hostq _ s, rfl]
@[simp] theorem shiftRow_rdata (k : Fin 2) (b : Nat) (s : State) : (shiftRow k b s).rdata = s.rdata := by unfold shiftRow; cases s.par.backend; exacts [emitAll_rdata _ s, rfl]
@[simp] theorem shiftRow_turns (k : Fin 2) (b : Nat) (s : State) : (shiftRow k b s).turns = s.turns := by unfold shiftRow; cases s.par.backend; exacts [emitAll_turns _ s, rfl]
@[simp] theorem shiftRow_turn (k : Fin 2) (b : Nat) (s : State) : (shiftRow k b s).turn = s.turn := by unfold shiftRow; cases s.par.backend; exacts [emitAll_turn _ s, rfl]
@[simp] theorem shiftRow_draws (k : Fin 2) (b : Nat) (s : State) : (shiftRow k b s).draws = s.draws := by unfold shiftRow; cases s.par.backend; exacts [emitAll_draws _ s, rfl]

/-! ### applyMux -/

@[simp] theorem applyMux_run (k : Nat) (s : State) : (applyMux k s).run = s.run := by unfold applyMux; cases s.par.backend <;> rfl
@[simp] theorem applyMux_db (k : Nat) (s : State) : (applyMux k s).db = s.db := by unfold applyMux; cases s.par.backend <;> rfl
@[simp] theorem applyMux_front (k : Nat) (s : State) : (applyMux k s).front = s.front := by unfold applyMux; cases s.par.backend <;> rfl
@[simp] theorem applyMux_bright (k : Nat) (s : State) : (applyMux k s).bright = s.bright := by unfold applyMux; cases s.par.backend <;> rfl
@[simp] theorem applyMux_scanUs (k : Nat) (s : State) : (applyMux k s).scanUs = s.scanUs := by unfold applyMux; cases s.par.backend <;> rfl
@[simp] theorem applyMux_div (k : Nat) (s : State) : (applyMux k s).div = s.div := by unfold applyMux; cases s.par.backend <;> rfl
@[simp] theorem applyMux_period (k : Nat) (s : State) : (applyMux k s).period = s.period := by unfold applyMux; cases s.par.backend <;> rfl
@[simp] theorem applyMux_achUs (k : Nat) (s : State) : (applyMux k s).achUs = s.achUs := by unfold applyMux; cases s.par.backend <;> rfl
@[simp] theorem applyMux_reloadPending (k : Nat) (s : State) : (applyMux k s).reloadPending = s.reloadPending := by unfold applyMux; cases s.par.backend <;> rfl
@[simp] theorem applyMux_pw (k : Nat) (s : State) : (applyMux k s).pw = s.pw := by unfold applyMux; cases s.par.backend <;> rfl
@[simp] theorem applyMux_ph (k : Nat) (s : State) : (applyMux k s).ph = s.ph := by unfold applyMux; cases s.par.backend <;> rfl
@[simp] theorem applyMux_nx (k : Nat) (s : State) : (applyMux k s).nx = s.nx := by unfold applyMux; cases s.par.backend <;> rfl
@[simp] theorem applyMux_ny (k : Nat) (s : State) : (applyMux k s).ny = s.ny := by unfold applyMux; cases s.par.backend <;> rfl
@[simp] theorem applyMux_nrows (k : Nat) (s : State) : (applyMux k s).nrows = s.nrows := by unfold applyMux; cases s.par.backend <;> rfl
@[simp] theorem applyMux_muxcnt (k : Nat) (s : State) : (applyMux k s).muxcnt = s.muxcnt := by unfold applyMux; cases s.par.backend <;> rfl
@[simp] theorem applyMux_selLvl (k : Nat) (s : State) : (applyMux k s).selLvl = s.selLvl := by unfold applyMux; cases s.par.backend <;> rfl
@[simp] theorem applyMux_dataInv (k : Nat) (s : State) : (applyMux k s).dataInv = s.dataInv := by unfold applyMux; cases s.par.backend <;> rfl
@[simp] theorem applyMux_oeLow (k : Nat) (s : State) : (applyMux k s).oeLow = s.oeLow := by unfold applyMux; cases s.par.backend <;> rfl
@[simp] theorem applyMux_cfgerr (k : Nat) (s : State) : (applyMux k s).cfgerr = s.cfgerr := by unfold applyMux; cases s.par.backend <;> rfl
@[simp] theorem applyMux_berr (k : Nat) (s : State) : (applyMux k s).berr = s.berr := by unfold applyMux; cases s.par.backend <;> rfl
@[simp] theorem applyMux_muxset (k : Nat) (s : State) : (applyMux k s).muxset = s.muxset := by unfold applyMux; cases s.par.backend <;> rfl
@[simp] theorem applyMux_muxclr (k : Nat) (s : State) : (applyMux k s).muxclr = s.muxclr := by unfold applyMux; cases s.par.backend <;> rfl
@[simp] theorem applyMux_tickcnt (k : Nat) (s : State) : (applyMux k s).tickcnt = s.tickcnt := by unfold applyMux; cases s.par.backend <;> rfl
@[simp] theorem applyMux_framecnt (k : Nat) (s : State) : (applyMux k s).framecnt = s.framecnt := by unfold applyMux; cases s.par.backend <;> rfl
@[simp] theorem applyMux_onCnt (k : Nat) (s : State) : (applyMux k s).onCnt = s.onCnt := by unfold applyMux; cases s.par.backend <;> rfl
@[simp] theorem applyMux_row (k : Nat) (s : State) : (applyMux k s).row = s.row := by unfold applyMux; cases s.par.backend <;> rfl
@[simp] theorem applyMux_phase (k : Nat) (s : State) : (applyMux k s).phase = s.phase := by unfold applyMux; cases s.par.backend <;> rfl
@[simp] theorem applyMux_busy (k : Nat) (s : State) : (applyMux k s).busy = s.busy := by unfold applyMux; cases s.par.backend <;> rfl
@[simp] theorem applyMux_nm (k : Nat) (s : State) : (applyMux k s).nm = s.nm := by unfold applyMux; cases s.par.backend <;> rfl
@[simp] theorem applyMux_cnt (k : Nat) (s : State) : (applyMux k s).cnt = s.cnt := by unfold applyMux; cases s.par.backend <;> rfl
@[simp] theorem applyMux_oeArmed (k : Nat) (s : State) : (applyMux k s).oeArmed = s.oeArmed := by unfold applyMux; cases s.par.backend <;> rfl
@[simp] theorem applyMux_store (k : Nat) (s : State) : (applyMux k s).store = s.store := by unfold applyMux; cases s.par.backend <;> rfl
@[simp] theorem applyMux_swapReq (k : Nat) (s : State) : (applyMux k s).swapReq = s.swapReq := by unfold applyMux; cases s.par.backend <;> rfl
@[simp] theorem applyMux_copyReq (k : Nat) (s : State) : (applyMux k s).copyReq = s.copyReq := by unfold applyMux; cases s.par.backend <;> rfl
@[simp] theorem applyMux_copyBusy (k : Nat) (s : State) : (applyMux k s).copyBusy = s.copyBusy := by unfold applyMux; cases s.par.backend <;> rfl
@[simp] theorem applyMux_copyIdx (k : Nat) (s : State) : (applyMux k s).copyIdx = s.copyIdx := by unfold applyMux; cases s.par.backend <;> rfl
@[simp] theorem applyMux_shRem (k : Nat) (s : State) : (applyMux k s).shRem = s.shRem := by unfold applyMux; cases s.par.backend <;> rfl
@[simp] theorem applyMux_shSrc (k : Nat) (s : State) : (applyMux k s).shSrc = s.shSrc := by unfold applyMux; cases s.par.backend <;> rfl
@[simp] theorem applyMux_shSlot (k : Nat) (s : State) : (applyMux k s).shSlot = s.shSlot := by unfold applyMux; cases s.par.backend <;> rfl
@[simp] theorem applyMux_dataLvl (k : Nat) (s : State) : (applyMux k s).dataLvl = s.dataLvl := by unfold applyMux; cases s.par.backend <;> rfl
@[simp] theorem applyMux_clkLvl (k : Nat) (s : State) : (applyMux k s).clkLvl = s.clkLvl := by unfold applyMux; cases s.par.backend <;> rfl
@[simp] theorem applyMux_latLvl (k : Nat) (s : State) : (applyMux k s).latLvl = s.latLvl := by unfold applyMux; cases s.par.backend <;> rfl
@[simp] theorem applyMux_panelSr (k : Nat) (s : State) : (applyMux k s).panelSr = s.panelSr := by unfold applyMux; cases s.par.backend <;> rfl
@[simp] theorem applyMux_panelLr (k : Nat) (s : State) : (applyMux k s).panelLr = s.panelLr := by unfold applyMux; cases s.par.backend <;> rfl
@[simp] theorem applyMux_par (k : Nat) (s : State) : (applyMux k s).par = s.par := by unfold applyMux; cases s.par.backend <;> rfl
@[simp] theorem applyMux_hostq (k : Nat) (s : State) : (applyMux k s).hostq = s.hostq := by unfold applyMux; cases s.par.backend <;> rfl
@[simp] theorem applyMux_rdata (k : Nat) (s : State) : (applyMux k s).rdata = s.rdata := by unfold applyMux; cases s.par.backend <;> rfl
@[simp] theorem applyMux_turns (k : Nat) (s : State) : (applyMux k s).turns = s.turns := by unfold applyMux; cases s.par.backend <;> rfl
@[simp] theorem applyMux_turn (k : Nat) (s : State) : (applyMux k s).turn = s.turn := by unfold applyMux; cases s.par.backend <;> rfl
@[simp] theorem applyMux_draws (k : Nat) (s : State) : (applyMux k s).draws = s.draws := by unfold applyMux; cases s.par.backend <;> rfl

/-! ### The fields an update changes -/

@[simp] theorem respond_rdata (v : Word) (s : State) : (respond v s).rdata = some v := rfl
@[simp] theorem acknowledge_rdata (s : State) : (acknowledge s).rdata = none := rfl
@[simp] theorem raiseBusError_berr (s : State) : (raiseBusError s).berr = true := rfl
@[simp] theorem raiseConfigError_cfgerr (s : State) : (raiseConfigError s).cfgerr = true := rfl
@[simp] theorem refuseTransaction_berr (wr : Bool) (s : State) : (refuseTransaction wr s).berr = true := rfl
@[simp] theorem refuseTransaction_rdata (wr : Bool) (s : State) :
    (refuseTransaction wr s).rdata = if wr then none else some 0#32 := by cases wr <;> rfl
@[simp] theorem emit_trace (e : Event) (s : State) : (emit e s).trace = s.trace ++ [e] := by cases e <;> rfl
@[simp] theorem emit_muxSet_eq (v : Word) (s : State) : emit (.muxSet v) s = { s with trace := s.trace ++ [.muxSet v] } := rfl
@[simp] theorem emit_oeOff_eq (s : State) : emit .oeOff s = { s with trace := s.trace ++ [.oeOff] } := rfl
@[simp] theorem emit_oeOn_eq (n : Nat) (s : State) : emit (.oeOn n) s = { s with trace := s.trace ++ [.oeOn n] } := rfl
@[simp] theorem emit_latch_eq (s : State) :
    emit .latch s = { s with trace := s.trace ++ [.latch], latLvl := false, panelLr := s.panelSr } := rfl
@[simp] theorem driveMux_muxLvl (v : Word) (s : State) : (driveMux v s).muxLvl = v := rfl
@[simp] theorem driveMux_trace (v : Word) (s : State) : (driveMux v s).trace = s.trace ++ [.muxSet v] := rfl
@[simp] theorem enterBurst_cnt (s : State) : (enterBurst s).cnt = 0 := rfl
@[simp] theorem enterBurst_tickcnt (s : State) : (enterBurst s).tickcnt = s.tickcnt + 1#32 := rfl
@[simp] theorem enterBurst_busy (s : State) : (enterBurst s).busy = true := rfl
@[simp] theorem leaveBurst_phase (s : State) : (leaveBurst s).phase = 0 := rfl
@[simp] theorem leaveBurst_busy (s : State) : (leaveBurst s).busy = false := rfl
@[simp] theorem exchange_front (s : State) : (exchange s).front = 1 - s.front := rfl
@[simp] theorem exchange_swapReq (s : State) : (exchange s).swapReq = false := rfl
@[simp] theorem exchange_copyReq (s : State) : (exchange s).copyReq = false := rfl
@[simp] theorem exchange_copyBusy (s : State) : (exchange s).copyBusy = (s.copyBusy || s.copyReq) := rfl
@[simp] theorem exchange_copyIdx (s : State) : (exchange s).copyIdx = if s.copyReq then 0 else s.copyIdx := rfl
@[simp] theorem setDoubleBuffer_db (db : Bool) (s : State) : (setDoubleBuffer db s).db = db := rfl
@[simp] theorem setDoubleBuffer_front (db : Bool) (s : State) :
    (setDoubleBuffer db s).front = if db then s.front else 0 := rfl

/-! ### preloadAndRun -/

@[simp] theorem preloadAndRun_run (s : State) : (preloadAndRun s).run = true := rfl
@[simp] theorem preloadAndRun_db (s : State) : (preloadAndRun s).db = s.db := shiftRow_db _ 0 s
@[simp] theorem preloadAndRun_front (s : State) : (preloadAndRun s).front = s.front := shiftRow_front _ 0 s
@[simp] theorem preloadAndRun_bright (s : State) : (preloadAndRun s).bright = s.bright := shiftRow_bright _ 0 s
@[simp] theorem preloadAndRun_scanUs (s : State) : (preloadAndRun s).scanUs = s.scanUs := shiftRow_scanUs _ 0 s
@[simp] theorem preloadAndRun_div (s : State) : (preloadAndRun s).div = s.div := shiftRow_div _ 0 s
@[simp] theorem preloadAndRun_period (s : State) : (preloadAndRun s).period = s.period := shiftRow_period _ 0 s
@[simp] theorem preloadAndRun_achUs (s : State) : (preloadAndRun s).achUs = s.achUs := shiftRow_achUs _ 0 s
@[simp] theorem preloadAndRun_reloadPending (s : State) : (preloadAndRun s).reloadPending = s.reloadPending := shiftRow_reloadPending _ 0 s
@[simp] theorem preloadAndRun_pw (s : State) : (preloadAndRun s).pw = s.pw := shiftRow_pw _ 0 s
@[simp] theorem preloadAndRun_ph (s : State) : (preloadAndRun s).ph = s.ph := shiftRow_ph _ 0 s
@[simp] theorem preloadAndRun_nx (s : State) : (preloadAndRun s).nx = s.nx := shiftRow_nx _ 0 s
@[simp] theorem preloadAndRun_ny (s : State) : (preloadAndRun s).ny = s.ny := shiftRow_ny _ 0 s
@[simp] theorem preloadAndRun_nrows (s : State) : (preloadAndRun s).nrows = s.nrows := shiftRow_nrows _ 0 s
@[simp] theorem preloadAndRun_muxcnt (s : State) : (preloadAndRun s).muxcnt = s.muxcnt := shiftRow_muxcnt _ 0 s
@[simp] theorem preloadAndRun_selLvl (s : State) : (preloadAndRun s).selLvl = s.selLvl := shiftRow_selLvl _ 0 s
@[simp] theorem preloadAndRun_dataInv (s : State) : (preloadAndRun s).dataInv = s.dataInv := shiftRow_dataInv _ 0 s
@[simp] theorem preloadAndRun_oeLow (s : State) : (preloadAndRun s).oeLow = s.oeLow := shiftRow_oeLow _ 0 s
@[simp] theorem preloadAndRun_cfgerr (s : State) : (preloadAndRun s).cfgerr = s.cfgerr := shiftRow_cfgerr _ 0 s
@[simp] theorem preloadAndRun_berr (s : State) : (preloadAndRun s).berr = s.berr := shiftRow_berr _ 0 s
@[simp] theorem preloadAndRun_muxset (s : State) : (preloadAndRun s).muxset = s.muxset := shiftRow_muxset _ 0 s
@[simp] theorem preloadAndRun_muxclr (s : State) : (preloadAndRun s).muxclr = s.muxclr := shiftRow_muxclr _ 0 s
@[simp] theorem preloadAndRun_tickcnt (s : State) : (preloadAndRun s).tickcnt = s.tickcnt := shiftRow_tickcnt _ 0 s
@[simp] theorem preloadAndRun_framecnt (s : State) : (preloadAndRun s).framecnt = s.framecnt := shiftRow_framecnt _ 0 s
@[simp] theorem preloadAndRun_onCnt (s : State) : (preloadAndRun s).onCnt = s.onCnt := shiftRow_onCnt _ 0 s
@[simp] theorem preloadAndRun_row (s : State) : (preloadAndRun s).row = s.row := shiftRow_row _ 0 s
@[simp] theorem preloadAndRun_phase (s : State) : (preloadAndRun s).phase = s.phase := shiftRow_phase _ 0 s
@[simp] theorem preloadAndRun_busy (s : State) : (preloadAndRun s).busy = s.busy := shiftRow_busy _ 0 s
@[simp] theorem preloadAndRun_nm (s : State) : (preloadAndRun s).nm = s.nm := shiftRow_nm _ 0 s
@[simp] theorem preloadAndRun_cnt (s : State) : (preloadAndRun s).cnt = s.cnt := shiftRow_cnt _ 0 s
@[simp] theorem preloadAndRun_oeArmed (s : State) : (preloadAndRun s).oeArmed = s.oeArmed := shiftRow_oeArmed _ 0 s
@[simp] theorem preloadAndRun_store (s : State) : (preloadAndRun s).store = s.store := shiftRow_store _ 0 s
@[simp] theorem preloadAndRun_swapReq (s : State) : (preloadAndRun s).swapReq = s.swapReq := shiftRow_swapReq _ 0 s
@[simp] theorem preloadAndRun_copyReq (s : State) : (preloadAndRun s).copyReq = s.copyReq := shiftRow_copyReq _ 0 s
@[simp] theorem preloadAndRun_copyBusy (s : State) : (preloadAndRun s).copyBusy = s.copyBusy := shiftRow_copyBusy _ 0 s
@[simp] theorem preloadAndRun_copyIdx (s : State) : (preloadAndRun s).copyIdx = s.copyIdx := shiftRow_copyIdx _ 0 s
@[simp] theorem preloadAndRun_muxPend (s : State) : (preloadAndRun s).muxPend = s.muxPend := shiftRow_muxPend _ 0 s
@[simp] theorem preloadAndRun_muxLvl (s : State) : (preloadAndRun s).muxLvl = s.muxLvl := shiftRow_muxLvl _ 0 s
@[simp] theorem preloadAndRun_par (s : State) : (preloadAndRun s).par = s.par := shiftRow_par _ 0 s
@[simp] theorem preloadAndRun_hostq (s : State) : (preloadAndRun s).hostq = s.hostq := shiftRow_hostq _ 0 s
@[simp] theorem preloadAndRun_rdata (s : State) : (preloadAndRun s).rdata = s.rdata := shiftRow_rdata _ 0 s
@[simp] theorem preloadAndRun_turns (s : State) : (preloadAndRun s).turns = s.turns := shiftRow_turns _ 0 s
@[simp] theorem preloadAndRun_turn (s : State) : (preloadAndRun s).turn = s.turn := shiftRow_turn _ 0 s
@[simp] theorem preloadAndRun_draws (s : State) : (preloadAndRun s).draws = s.draws := shiftRow_draws _ 0 s

/-! ### The fields a start and a reload change -/

@[simp] theorem clearSequencer_reloadPending (s : State) : (clearSequencer s).reloadPending = false := rfl
@[simp] theorem clearSequencer_row (s : State) : (clearSequencer s).row = 0 := rfl
@[simp] theorem clearSequencer_nm (s : State) : (clearSequencer s).nm = 0 := rfl
@[simp] theorem clearSequencer_phase (s : State) : (clearSequencer s).phase = 0 := rfl
@[simp] theorem clearSequencer_busy (s : State) : (clearSequencer s).busy = false := rfl
@[simp] theorem clearSequencer_cnt (s : State) : (clearSequencer s).cnt = 0 := rfl
@[simp] theorem clearSequencer_oeArmed (s : State) : (clearSequencer s).oeArmed = false := rfl
@[simp] theorem clearSequencer_onCnt (s : State) : (clearSequencer s).onCnt = 0 := rfl
@[simp] theorem clearSequencer_muxPend (s : State) : (clearSequencer s).muxPend = none := rfl
@[simp] theorem loadTiming_div (s : State) :
    (loadTiming s).div = (computeTiming s.par.fTimerHz s.par.timerWidth s.par.divMax s.scanUs.toNat).div := by
  unfold loadTiming; rfl
@[simp] theorem loadTiming_period (s : State) :
    (loadTiming s).period = (computeTiming s.par.fTimerHz s.par.timerWidth s.par.divMax s.scanUs.toNat).period := by
  unfold loadTiming; rfl
@[simp] theorem loadTiming_achUs (s : State) : (loadTiming s).achUs
    = BitVec.ofNat 32 (computeTiming s.par.fTimerHz s.par.timerWidth s.par.divMax s.scanUs.toNat).achUs := by
  unfold loadTiming; rfl

end Sys2Proof.Machine
end

