-- ==== Sys2Proof/Laws/Memory.lean ====
section
/-! SUPPORT. The laws of the buffer store: read after write, other bytes stay, and every operation keeps the canonical
form. -/

namespace Sys2Proof.Machine

/-! ### Memory -/

theorem Memory.read_nil (a : Nat) : Memory.read [] a = Memory.unlisted := rfl

theorem Memory.read_cons (b : Nat) (w : Byte) (m : Memory) (a : Nat) :
    Memory.read ((b, w) :: m) a = if b = a then w else Memory.read m a := rfl

/-- Below its first address a canonical memory reads as unlisted. -/
theorem Memory.read_below {lo hi a : Nat} {m : Memory} (h : Memory.canonicalFrom lo hi m = true) (ha : a < lo) :
    Memory.read m a = Memory.unlisted := by
  induction m generalizing lo with
  | nil => rfl
  | cons c m ih =>
    obtain ⟨b, w⟩ := c
    simp only [Memory.canonicalFrom, Bool.and_eq_true, decide_eq_true_eq] at h
    rw [Memory.read_cons, if_neg (by omega)]
    exact ih h.2 (by omega)

/-- A read of the address written gives the byte written. -/
theorem Memory.read_write_same {lo hi a : Nat} {m : Memory} (v : Byte) (h : Memory.canonicalFrom lo hi m = true) :
    Memory.read (Memory.write m a v) a = v := by
  induction m generalizing lo with
  | nil =>
    unfold Memory.write
    split
    · next hv => rw [hv]; rfl
    · simp [Memory.read_cons]
  | cons c m ih =>
    obtain ⟨b, w⟩ := c
    simp only [Memory.canonicalFrom, Bool.and_eq_true, decide_eq_true_eq] at h
    unfold Memory.write
    split
    · next hlt =>
      split
      · next hv => rw [hv, Memory.read_cons, if_neg (by omega)]; exact Memory.read_below h.2 (by omega)
      · simp [Memory.read_cons]
    · split
      · next heq =>
        split
        · next hv => rw [hv, heq]; exact Memory.read_below h.2 (by omega)
        · simp [Memory.read_cons]
      · next hne => rw [Memory.read_cons, if_neg (by omega)]; exact ih h.2

/-- A read of another address is unchanged by a write. -/
theorem Memory.read_write_other {a b : Nat} (m : Memory) (v : Byte) (h : b ≠ a) :
    Memory.read (Memory.write m a v) b = Memory.read m b := by
  induction m with
  | nil =>
    unfold Memory.write
    split
    · rfl
    · rw [Memory.read_cons, if_neg (by omega)]
  | cons c m ih =>
    obtain ⟨d, w⟩ := c
    unfold Memory.write
    split
    · split
      · rfl
      · rw [Memory.read_cons, if_neg (by omega)]
    · split
      · next heq =>
        split
        · rw [Memory.read_cons, if_neg (by omega)]
        · rw [Memory.read_cons, Memory.read_cons, if_neg (by omega), if_neg (by omega)]
      · rw [Memory.read_cons, Memory.read_cons, ih]

theorem Memory.canonicalFrom_mono {lo lo' hi : Nat} {m : Memory} (h : Memory.canonicalFrom lo hi m = true)
    (hl : lo' ≤ lo) : Memory.canonicalFrom lo' hi m = true := by
  cases m with
  | nil => rfl
  | cons c m =>
    obtain ⟨b, w⟩ := c
    simp only [Memory.canonicalFrom, Bool.and_eq_true, decide_eq_true_eq] at h ⊢
    exact ⟨⟨⟨by omega, h.1.1.2⟩, h.1.2⟩, h.2⟩

/-- A write inside the bounds keeps the canonical form. -/
theorem Memory.write_canonical {lo hi a : Nat} {m : Memory} (v : Byte) (h : Memory.canonicalFrom lo hi m = true)
    (hlo : lo ≤ a) (hhi : a < hi) : Memory.canonicalFrom lo hi (Memory.write m a v) = true := by
  induction m generalizing lo with
  | nil =>
    unfold Memory.write
    split
    · rfl
    · simp_all [Memory.canonicalFrom]
  | cons c m ih =>
    obtain ⟨b, w⟩ := c
    have h' := h
    simp only [Memory.canonicalFrom, Bool.and_eq_true, decide_eq_true_eq] at h'
    obtain ⟨⟨⟨h1, h2⟩, h3⟩, h4⟩ := h'
    unfold Memory.write
    split
    · split
      · exact h
      · next hlt hv =>
        simp only [Memory.canonicalFrom, Bool.and_eq_true, decide_eq_true_eq]
        exact ⟨⟨⟨hlo, hhi⟩, hv⟩, ⟨⟨by omega, h2⟩, h3⟩, h4⟩
    · split
      · next heq =>
        split
        · exact Memory.canonicalFrom_mono h4 (by omega)
        · next hv =>
          simp only [Memory.canonicalFrom, Bool.and_eq_true, decide_eq_true_eq]
          exact ⟨⟨⟨hlo, hhi⟩, hv⟩, heq ▸ h4⟩
      · simp only [Memory.canonicalFrom, Bool.and_eq_true, decide_eq_true_eq]
        exact ⟨⟨⟨h1, h2⟩, h3⟩, ih h4 (by omega)⟩

/-! ### The bytes of the slots -/

theorem cellAddr_lt {k : Fin 2} {i : Nat} (h : i < 4096) : cellAddr k i < Memory.storeBytes := by
  have := k.isLt
  simp only [cellAddr, Config.bufBytes, Memory.storeBytes]
  omega

theorem cellAddr_inj {k l : Fin 2} {i j : Nat} (hi : i < 4096) (hj : j < 4096) (h : cellAddr k i = cellAddr l j) :
    k = l ∧ i = j := by
  have := k.isLt
  have := l.isLt
  simp only [cellAddr, Config.bufBytes] at h
  exact ⟨Fin.ext (by omega), by omega⟩

@[simp] theorem bufWrite_store (k : Fin 2) (i : Nat) (v : Byte) (s : State) :
    (bufWrite k i v s).store = if i < 4096 then Memory.write s.store (cellAddr k i) v else s.store := rfl

/-- The byte of the slot that was written. -/
theorem bufRead_bufWrite_same {s : State} (h : Memory.wf s.store = true) (k : Fin 2) {i : Nat} (hi : i < 4096) (v : Byte) :
    bufRead k i (bufWrite k i v s) = v := by
  simp only [bufRead, bufWrite_store, Config.bufBytes, if_pos hi]
  exact Memory.read_write_same v h

/-- Every other byte of both slots stays. -/
theorem bufRead_bufWrite_other (s : State) {k l : Fin 2} {i j : Nat} (v : Byte) (h : l ≠ k ∨ j ≠ i) :
    bufRead l j (bufWrite k i v s) = bufRead l j s := by
  simp only [bufRead, bufWrite_store, Config.bufBytes]
  split
  · next hj =>
    split
    · next hi =>
      refine Memory.read_write_other _ _ fun he => ?_
      have := cellAddr_inj hj hi he
      rcases h with h | h
      · exact h this.1
      · exact h this.2
    · rfl
  · rfl

/-- All that a byte write can do to a byte. -/
theorem bufRead_bufWrite {s : State} (h : Memory.wf s.store = true) (k l : Fin 2) (i j : Nat) (v : Byte) :
    bufRead l j (bufWrite k i v s) = if l = k ∧ j = i ∧ i < 4096 then v else bufRead l j s := by
  split
  · next hc => obtain ⟨rfl, rfl, hi⟩ := hc; exact bufRead_bufWrite_same h l hi v
  · next hc =>
    by_cases hi : i < 4096
    · refine bufRead_bufWrite_other s v ?_
      by_contra hn
      push Not at hn
      exact hc ⟨hn.1, hn.2, hi⟩
    · simp [bufRead, bufWrite_store, hi]

/-- A byte write keeps the canonical form. -/
theorem bufWrite_wf {s : State} (h : Memory.wf s.store = true) (k : Fin 2) (i : Nat) (v : Byte) :
    Memory.wf (bufWrite k i v s).store = true := by
  rw [bufWrite_store]
  split
  · next hi => exact Memory.write_canonical v h (Nat.zero_le _) (cellAddr_lt hi)
  · exact h

theorem bufRead_congr {s t : State} (h : t.store = s.store) (k : Fin 2) (i : Nat) : bufRead k i t = bufRead k i s := by
  simp only [bufRead, h]

/-- A window write keeps the canonical form. -/
theorem memWrite_wf {s : State} (h : Memory.wf s.store = true) (a n : Nat) (v : Word) :
    Memory.wf (memWrite a n v s).store = true := by
  unfold memWrite
  generalize bslot s = k
  generalize List.range n = l
  induction l generalizing s with
  | nil => exact h
  | cons t l ih => exact ih (bufWrite_wf h _ _ _)

/-- All that a window write can do to a byte: the `n` bytes from `a - 0x1000` on of the back slot take the bytes of `v`, low
first, and every other byte stays (20_memory.md R106). -/
theorem bufRead_memWrite {s : State} (h : Memory.wf s.store = true) (a n : Nat) (v : Word) (l : Fin 2) (j : Nat)
    (hr : a - 0x1000 + n ≤ 4096) :
    bufRead l j (memWrite a n v s)
      = if l = bslot s ∧ a - 0x1000 ≤ j ∧ j < a - 0x1000 + n then v.extractLsb' (8 * (j - (a - 0x1000))) 8
        else bufRead l j s := by
  unfold memWrite
  generalize bslot s = k
  generalize hb : a - 0x1000 = b at hr
  clear hb
  induction n with
  | zero => simp
  | succ n ih =>
    have hw : Memory.wf (List.foldl (fun u t => bufWrite k (b + t) (v.extractLsb' (8 * t) 8) u) s (List.range n)).store
        = true := by
      generalize List.range n = r
      clear ih
      induction r generalizing s with
      | nil => exact h
      | cons t r ih => exact ih (bufWrite_wf h _ _ _)
    rw [List.range_succ, List.foldl_append, List.foldl_cons, List.foldl_nil, bufRead_bufWrite hw, ih (by omega)]
    by_cases hk : l = k
    · by_cases hj : j = b + n
      · subst hj
        rw [if_pos ⟨hk, rfl, by omega⟩, if_pos ⟨hk, by omega, by omega⟩, Nat.add_sub_cancel_left]
      · rw [if_neg (by omega)]
        by_cases hc : b ≤ j ∧ j < b + n
        · rw [if_pos ⟨hk, hc.1, hc.2⟩, if_pos ⟨hk, hc.1, by omega⟩]
        · rw [if_neg (by omega), if_neg (by omega)]
    · rw [if_neg (by tauto), if_neg (by tauto), if_neg (by tauto)]

end Sys2Proof.Machine
end

