-- ==== Sys2Proof/Laws/Ops.lean ====
section
/-! SUPPORT. For each shared operation one lemma that says once everything it does, and that every turn ends in a next state:
what later proofs cite instead of unfolding. -/

namespace Sys2Proof.Machine

/-! ### Shifting bits into the panel -/

/-- The panel's shift register after the bits `ds` are shifted in (45_backends.md R450). -/
def shiftIn (ds sr : List Bool) : List Bool := ds.foldl (fun r d => r.tail ++ [d]) sr

@[simp] theorem shiftIn_nil (sr : List Bool) : shiftIn [] sr = sr := rfl

@[simp] theorem shiftIn_cons (d : Bool) (ds sr : List Bool) : shiftIn (d :: ds) sr = shiftIn ds (sr.tail ++ [d]) := rfl

/-- Bits that fit in the register push out as many from its far end. -/
theorem shiftIn_eq (ds sr : List Bool) (h : ds.length ≤ sr.length) : shiftIn ds sr = sr.drop ds.length ++ ds := by
  induction ds generalizing sr with
  | nil => simp
  | cons d ds ih =>
    cases sr with
    | nil => simp at h
    | cons b sr =>
      simp only [List.length_cons, Nat.add_le_add_iff_right] at h
      rw [shiftIn_cons, List.tail_cons, ih _ (by simp; omega), List.length_cons, List.drop_succ_cons,
        List.drop_append_of_le_length h, List.append_assoc, List.singleton_append]

/-- As many bits as the register has replace it. -/
theorem shiftIn_full (ds sr : List Bool) (h : sr.length = ds.length) : shiftIn ds sr = ds := by
  rw [shiftIn_eq ds sr (Nat.le_of_eq h.symm), ← h, List.drop_length, List.nil_append]

/-- Shifting keeps the register's length. -/
theorem shiftIn_length (ds sr : List Bool) (h : 0 < sr.length) : (shiftIn ds sr).length = sr.length := by
  induction ds generalizing sr with
  | nil => rfl
  | cons d ds ih =>
    rw [shiftIn_cons, ih _ (by simp)]
    simp
    omega

/-- Emitting bits: the trace takes their events, the data line keeps the last, the panel shifts them in (45_backends.md R430,
R450). -/
theorem emitAll_bits (ds : List Bool) (s : State) : emitAll (ds.map .bit) s = { s with
    trace := s.trace ++ ds.map .bit
    dataLvl := ds.getLast?.getD s.dataLvl
    clkLvl := s.clkLvl && ds.isEmpty
    panelSr := shiftIn ds s.panelSr } := by
  induction ds generalizing s with
  | nil => simp [emitAll]
  | cons d ds ih =>
    have h : emitAll ((d :: ds).map .bit) s = emitAll (ds.map .bit) (emit (.bit d) s) := rfl
    rw [h, ih]
    simp [emit, List.getLast?_cons]

/-! ### The levels of a row -/

@[simp] theorem byteLevels_length (v : Byte) (s : State) : (byteLevels v s).length = 8 := rfl

/-- A row of `n` bytes has `8 * n` bits. -/
@[simp] theorem rowLevels_length (k : Fin 2) (base n : Nat) (s : State) : (rowLevels k base n s).length = 8 * n := by
  simp [rowLevels, List.length_flatMap]
  omega

/-- The levels of a row depend on the slot's bytes and the data polarity only. -/
theorem rowLevels_congr {s t : State} (h : t.dataInv = s.dataInv) (k : Fin 2) (base n : Nat)
    (hb : ∀ j, j < n → bufRead k (base + j) t = bufRead k (base + j) s) : rowLevels k base n t = rowLevels k base n s := by
  simp only [rowLevels, byteLevels, h]
  apply List.flatMap_congr
  intro j hj
  rw [hb j (List.mem_range.mp hj)]

/-- The levels of a row, its first byte apart. -/
theorem rowLevels_succ (k : Fin 2) (base n : Nat) (s : State) :
    rowLevels k base (n + 1) s = byteLevels (bufRead k base s) s ++ rowLevels k (base + 1) n s := by
  simp only [rowLevels, List.range_succ_eq_map, List.flatMap_cons, List.flatMap_map, Nat.add_zero, Nat.add_assoc,
    Nat.add_comm 1]

/-! ### One lemma for each shared operation -/

/-- REG `shift_row` (45_backends.md R431). -/
theorem shiftRowReg_eq (k : Fin 2) (base : Nat) (s : State) : shiftRowReg k base s = { s with
    trace := s.trace ++ (rowLevels k base (rowBytes s) s).map .bit
    dataLvl := (rowLevels k base (rowBytes s) s).getLast?.getD s.dataLvl
    clkLvl := s.clkLvl && (rowLevels k base (rowBytes s) s).isEmpty
    panelSr := shiftIn (rowLevels k base (rowBytes s) s) s.panelSr } := emitAll_bits _ s

/-- A row shift leaves the latch line and the panel's latch register as they are. -/
@[simp] theorem shiftRow_latLvl (k : Fin 2) (base : Nat) (s : State) : (shiftRow k base s).latLvl = s.latLvl := by
  unfold shiftRow
  cases s.par.backend
  · show (shiftRowReg k base s).latLvl = s.latLvl
    rw [shiftRowReg_eq]
  · rfl

@[simp] theorem shiftRow_panelLr (k : Fin 2) (base : Nat) (s : State) : (shiftRow k base s).panelLr = s.panelLr := by
  unfold shiftRow
  cases s.par.backend
  · show (shiftRowReg k base s).panelLr = s.panelLr
    rw [shiftRowReg_eq]
  · rfl

@[simp] theorem preloadAndRun_latLvl (s : State) : (preloadAndRun s).latLvl = s.latLvl := shiftRow_latLvl _ 0 s

@[simp] theorem preloadAndRun_panelLr (s : State) : (preloadAndRun s).panelLr = s.panelLr := shiftRow_panelLr _ 0 s

/-- SHIFT step (45_backends.md R435). -/
theorem shiftStep_eq (s : State) : shiftStep s = { s with
    shSrc := s.shSrc + 1
    shRem := s.shRem - 1
    trace := s.trace ++ (byteLevels (bufRead s.shSlot s.shSrc s) s).map .bit
    dataLvl := (bufRead s.shSlot s.shSrc s).getLsbD 0 ^^ s.dataInv
    clkLvl := false
    panelSr := shiftIn (byteLevels (bufRead s.shSlot s.shSrc s) s) s.panelSr } := by
  simp only [shiftStep, emitAll_bits]
  simp [byteLevels, byteBits]

/-- MUXSM step with the row `i` pending (45_backends.md R440). -/
theorem muxsmStep_eq {s : State} {i : Nat} (h : s.muxPend = some i) : muxsmStep s = { s with
    muxLvl := muxLevel s i &&& lineMask s
    trace := s.trace ++ [.muxSet (muxLevel s i &&& lineMask s)]
    muxPend := none } := by
  simp only [muxsmStep, h, driveMux, emit]

/-- REG `apply_mux` (45_backends.md R441). -/
theorem applyMux_reg {s : State} (h : s.par.backend = .reg) (k : Nat) : applyMux k s = { s with
    muxLvl := appliedLevels s k
    trace := s.trace ++ [.muxSet (appliedLevels s k)] } := by
  simp only [applyMux, h, driveMux, emit]

/-- PIO `apply_mux` (45_backends.md R441). -/
theorem applyMux_pio {s : State} (h : s.par.backend = .pio) (k : Nat) : applyMux k s = { s with
    muxPend := some (muxEntry s.muxset k).toNat } := by
  simp only [applyMux, h]

/-- COPY step (44_swap_arbiter.md R388). -/
theorem copyStep_eq (s : State) : copyStep s = { s with
    store := (bufWrite (bslot s) s.copyIdx (bufRead (fslot s) s.copyIdx s) s).store
    copyIdx := s.copyIdx + 1
    copyBusy := !(s.copyIdx == 4095) } := rfl

/-- A fold of updates of the buffer store updates the buffer store only. -/
theorem foldl_store {f : State → Nat → State} (hf : ∀ u i, f u i = { u with store := (f u i).store }) (l : List Nat)
    (s : State) : l.foldl f s = { s with store := (l.foldl f s).store } := by
  induction l generalizing s with
  | nil => rfl
  | cons i l ih =>
    have h1 := ih (f s i)
    rw [List.foldl_cons]
    generalize List.foldl f (f s i) l = u at h1 ⊢
    exact h1.trans (by rw [hf s i])

/-- `memWrite` changes the buffer store only. -/
theorem memWrite_eq (a n : Nat) (v : Word) (s : State) : memWrite a n v s = { s with store := (memWrite a n v s).store } :=
  foldl_store (fun _ _ => rfl) _ s

/-- `stop()` (43_refresh_sequencer.md R326). -/
theorem stop_eq (s : State) : stop s = { s with
    oeArmed := false, run := false, cnt := 0, shRem := 0, muxPend := none, reloadPending := false
    trace := if s.oeArmed then s.trace ++ [.oeOff] else s.trace
    front := if s.swapReq then 1 - s.front else s.front
    swapReq := false
    copyBusy := s.copyBusy || (s.swapReq && s.copyReq)
    copyIdx := if s.swapReq && s.copyReq then 0 else s.copyIdx
    copyReq := if s.swapReq then false else s.copyReq } := by
  cases h1 : s.oeArmed <;> cases h2 : s.swapReq <;> simp [stop, exchange, emit, h1, h2]

/-! ### Every turn ends in a next state -/

/-- No instruction stops the machine (60_exceptions.md R474). -/
theorem exec_next (i : Instr) (s : State) : ∃ t, exec i s = .next t := by
  cases i <;> exact ⟨_, rfl⟩

theorem hostStep_next (s : State) : ∃ t, hostStep s = .next t := by
  unfold hostStep
  split
  · exact ⟨_, rfl⟩
  · split
    · exact exec_next _ _
    · exact ⟨_, rfl⟩

theorem takeTurn_next (τ : Turn) (s : State) : ∃ t, takeTurn τ s = .next t := by
  cases τ with
  | reset => exact ⟨_, rfl⟩
  | agent a =>
    simp only [takeTurn]
    split
    · cases a
      · exact hostStep_next s
      all_goals exact ⟨_, rfl⟩
    · exact ⟨_, rfl⟩

theorem takeTurn_eq_afterTurn (τ : Turn) (s : State) : takeTurn τ s = .next (afterTurn τ s) := by
  obtain ⟨t, h⟩ := takeTurn_next τ s
  simp only [afterTurn, h]

/-- What a `CTRL` write can do (40_host_registers.md R203): `ControlEffect en db s t` when it leaves `t`. -/
inductive ControlEffect (en db : Bool) (s : State) : State → Prop where
  /-- A refused `DB` change sets `BERR` and does nothing else. -/
  | refused (hd : db ≠ s.db) (h : (s.run = true ∧ en = true) ∨ (s.run = true ∧ en = false ∧ (stop s).copyBusy = true)
      ∨ (s.run = false ∧ s.copyBusy = true)) : ControlEffect en db s (raiseBusError s)
  /-- The block stays as it is, running or stopped. -/
  | kept (hr : s.run = en) (hd : db = s.db) : ControlEffect en db s s
  | stopped (hr : s.run = true) (he : en = false) (hd : db = s.db) : ControlEffect en db s (stop s)
  | stoppedDb (hr : s.run = true) (he : en = false) (hd : db ≠ s.db) (hc : (stop s).copyBusy = false) :
      ControlEffect en db s (setDoubleBuffer db (stop s))
  | storedDb (hr : s.run = false) (he : en = false) (hd : db ≠ s.db) (hc : s.copyBusy = false) :
      ControlEffect en db s (setDoubleBuffer db s)
  | started (hr : s.run = false) (he : en = true) (hd : db = s.db) : ControlEffect en db s (start s)
  | startedDb (hr : s.run = false) (he : en = true) (hd : db ≠ s.db) (hc : s.copyBusy = false) :
      ControlEffect en db s (start (setDoubleBuffer db s))

/-- Every `CTRL` write does one of these. -/
theorem writeControl_effect (en db : Bool) (s : State) : ControlEffect en db s (writeControl en db s) := by
  have hstop : (stop s).db = s.db := by rw [stop_eq]
  by_cases hd : db = s.db
  · have hb : (db != s.db) = false := by simp [hd]
    cases hr : s.run <;> cases en
    · simpa [writeControl, controlEffect, controlStopped, hr, hb] using ControlEffect.kept hr hd
    · simpa [writeControl, controlEffect, controlStopped, hr, hb] using ControlEffect.started hr rfl hd
    · simpa [writeControl, controlEffect, controlStopped, hr, hb, hstop] using ControlEffect.stopped hr rfl hd
    · simpa [writeControl, controlEffect, hr, hb] using ControlEffect.kept hr hd
  · have hb : (db != s.db) = true := by simpa using hd
    cases hr : s.run with
    | false =>
      cases hc : s.copyBusy with
      | true =>
        simpa [writeControl, controlEffect, controlStopped, hr, hb, hc] using
          ControlEffect.refused (en := en) hd (.inr (.inr ⟨hr, hc⟩))
      | false =>
        cases en
        · simpa [writeControl, controlEffect, controlStopped, hr, hb, hc] using ControlEffect.storedDb hr rfl hd hc
        · simpa [writeControl, controlEffect, controlStopped, hr, hb, hc] using ControlEffect.startedDb hr rfl hd hc
    | true =>
      cases en with
      | true =>
        simpa [writeControl, controlEffect, hr, hb] using ControlEffect.refused hd (.inl ⟨hr, rfl⟩)
      | false =>
        cases hc : (stop s).copyBusy with
        | true =>
          simpa [writeControl, controlEffect, controlStopped, hr, hb, hstop, hc] using
            ControlEffect.refused hd (.inr (.inl ⟨hr, rfl, hc⟩))
        | false =>
          simpa [writeControl, controlEffect, controlStopped, hr, hb, hstop, hc] using ControlEffect.stoppedDb hr rfl hd hc

/-- What one instruction can do: `ExecEffect s i t` when `exec i s` is the next state `t`. -/
inductive ExecEffect (s : State) : Instr → State → Prop where
  /-- A read answers and changes nothing. -/
  | read (i : Instr) (v : Word) : ExecEffect s i (respond v s)
  /-- A misaligned window form is a bus error. -/
  | misaligned (i : Instr) (wr : Bool) : ExecEffect s i (refuseTransaction wr s)
  | ctrl (d : Word) : ExecEffect s (.wrCtrl d) (acknowledge (writeControl (d.getLsbD 0) (d.getLsbD 1) s))
  | status (d : Word) : ExecEffect s (.wrStatus d) (acknowledge (clearSticky d s))
  | bright (d : Word) : ExecEffect s (.wrBright d) (acknowledge { s with bright := d.extractLsb' 0 8 })
  | swap (d : Word) : ExecEffect s (.wrSwap d) (acknowledge (requestSwap (d.getLsbD 0) (d.getLsbD 1) s))
  | scanUs (d : Word) :
      ExecEffect s (.wrScanUs d) (acknowledge { s with scanUs := d, reloadPending := s.reloadPending || s.run })
  /-- A configuration write while running is a bus error. -/
  | configRefused (i : Instr) (h : s.run = true) : ExecEffect s i (acknowledge (raiseBusError s))
  | geom0 (d : Word) (h : s.run = false) : ExecEffect s (.wrGeom0 d)
      (acknowledge { s with pw := geom0Pw d, ph := geom0Ph d, nx := geom0Nx d, ny := geom0Ny d })
  | geom1 (d : Word) (h : s.run = false) : ExecEffect s (.wrGeom1 d)
      (acknowledge { s with nrows := geom1Nrows d, muxcnt := geom1Muxcnt d })
  | pol (d : Word) (h : s.run = false) : ExecEffect s (.wrPol d)
      (acknowledge { s with selLvl := polSelLvl d, dataInv := polDataInv d, oeLow := polOeLow d })
  /-- An aligned BACK window write of `n` bytes. -/
  | store (i : Instr) (n : Nat) (a : BitVec 12) (d : Word) (hi : i = .wr8Back a d ∨ i = .wr16Back a d ∨ i = .wr32Back a d)
      (hn : a.toNat + n ≤ 4096) : ExecEffect s i (acknowledge (memWrite (0x1000 + a.toNat) n d s))

theorem windowWrite_effect {s : State} (i : Instr) (n : Nat) (al : Bool) (a : BitVec 12) (d : Word)
    (hi : i = .wr8Back a d ∨ i = .wr16Back a d ∨ i = .wr32Back a d) (hn : al = true → a.toNat + n ≤ 4096) :
    ExecEffect s i (windowWrite n al a d s) := by
  cases al with
  | false => exact .misaligned i true
  | true => exact .store i n a d hi (hn rfl)

theorem windowRead_effect {s : State} (i : Instr) (base n : Nat) (al : Bool) (a : BitVec 12) :
    ExecEffect s i (windowRead base n al a s) := by
  cases al with
  | false => exact .misaligned i false
  | true => exact .read i _

theorem configure_effect {s : State} (i : Instr) (f : State → State)
    (h : s.run = false → ExecEffect s i (acknowledge (f s))) : ExecEffect s i (acknowledge (configure f s)) := by
  unfold configure
  cases hr : s.run with
  | false => exact h hr
  | true => exact .configRefused i hr

/-- Every instruction does one of these. -/
theorem exec_effect {i : Instr} {s t : State} (h : exec i s = .next t) : ExecEffect s i t := by
  cases i <;> obtain rfl := Host.Outcome.next.inj h
  case wrCtrl d => exact .ctrl d
  case wrStatus d => exact .status d
  case wrBright d => exact .bright d
  case wrSwap d => exact .swap d
  case wrScanUs d => exact .scanUs d
  case wrGeom0 d => exact configure_effect _ _ (.geom0 d)
  case wrGeom1 d => exact configure_effect _ _ (.geom1 d)
  case wrPol d => exact configure_effect _ _ (.pol d)
  case wr8Back a d => exact windowWrite_effect _ 1 true a d (.inl rfl) (fun _ => by omega)
  case wr16Back a d =>
    exact windowWrite_effect _ 2 _ a d (.inr (.inl rfl)) (fun h => by simp only [halfAligned, beq_iff_eq] at h; omega)
  case wr32Back a d =>
    exact windowWrite_effect _ 4 _ a d (.inr (.inr rfl)) (fun h => by simp only [wordAligned, beq_iff_eq] at h; omega)
  case rd8Back a => exact windowRead_effect _ _ _ _ a
  case rd16Back a => exact windowRead_effect _ _ _ _ a
  case rd32Back a => exact windowRead_effect _ _ _ _ a
  case rd8Front a => exact windowRead_effect _ _ _ _ a
  case rd16Front a => exact windowRead_effect _ _ _ _ a
  case rd32Front a => exact windowRead_effect _ _ _ _ a
  all_goals exact .read _ _

/-- What one turn can do: `TurnEffect s τ t` when `takeTurn τ s` is the next state `t`. -/
inductive TurnEffect (s : State) : Turn → State → Prop where
  /-- A disabled agent holds. -/
  | hold (a : Agent) (h : enabled a s = false) : TurnEffect s (.agent a) s
  | reset : TurnEffect s .reset (resetInput s)
  | timer (hr : s.run = true) (hb : s.busy = false) : TurnEffect s (.agent .timer) (timerStep s)
  | seq (hr : s.run = true) (hb : s.busy = true) (hq : seqReady s = true) : TurnEffect s (.agent .seq) (seqStep s)
  | copy (h : s.copyBusy = true) : TurnEffect s (.agent .copy) (copyStep s)
  | shift (hp : s.par.backend = .pio) (h : 0 < s.shRem) : TurnEffect s (.agent .shift) (shiftStep s)
  | muxsm (hp : s.par.backend = .pio) (i : Nat) (h : s.muxPend = some i) : TurnEffect s (.agent .muxsm) (muxsmStep s)
  /-- The host's next transaction is performed. -/
  | host (w : Transaction) (q : List Transaction) (i : Instr) (t : State) (hb : s.busy = false) (hq : s.hostq = w :: q)
      (hd : decode w = .ok i) (he : ExecEffect { s with hostq := q } i t) : TurnEffect s (.agent .host) t
  /-- The host's next transaction is illegal. -/
  | illegal (w : Transaction) (q : List Transaction) (e : DecodeError) (hb : s.busy = false) (hq : s.hostq = w :: q)
      (hd : decode w = .error e) : TurnEffect s (.agent .host) (refuseTransaction (isWrite w) { s with hostq := q })

/-- Every turn does one of these. -/
theorem takeTurn_effect {τ : Turn} {s t : State} (h : takeTurn τ s = .next t) : TurnEffect s τ t := by
  cases τ with
  | reset => obtain rfl := Host.Outcome.next.inj h; exact .reset
  | agent a =>
    simp only [takeTurn] at h
    cases he : enabled a s with
    | false => rw [he] at h; obtain rfl := Host.Outcome.next.inj h; exact .hold a he
    | true =>
      rw [he, if_pos rfl] at h
      cases a <;> simp only [enabled, Bool.and_eq_true, Bool.not_eq_true', beq_iff_eq, decide_eq_true_eq] at he
        <;> simp only [agentStep, Host.Outcome.next.injEq] at h
      · obtain ⟨hb, hq⟩ := he
        cases hs : s.hostq with
        | nil => simp [hs] at hq
        | cons w q =>
          simp only [hostStep, hs] at h
          split at h
          · next i hd => exact .host w q i t hb hs hd (exec_effect h)
          · next e hd => obtain rfl := Host.Outcome.next.inj h; exact .illegal w q e hb hs hd
      · subst h; exact .timer he.1 he.2
      · subst h; exact .seq he.1.1 he.1.2 he.2
      · subst h; exact .copy he
      · subst h; exact .shift he.1 he.2
      · obtain ⟨i, hi⟩ := Option.isSome_iff_exists.mp he.2
        subst h; exact .muxsm he.1 i hi

end Sys2Proof.Machine
end

