-- ==== Sys2Proof/Laws/Start.lean ====
section
/-! SUPPORT. What the derived sizes and predicates depend on, and every field of the state after an accepted start. -/

namespace Sys2Proof.Machine

/-! ### What the derived values depend on -/

/-- The six geometry components of two states agree. -/
def SameGeometry (s t : State) : Prop :=
  t.pw = s.pw ∧ t.ph = s.ph ∧ t.nx = s.nx ∧ t.ny = s.ny ∧ t.nrows = s.nrows ∧ t.muxcnt = s.muxcnt

theorem frameBytes_congr {s t : State} (h : SameGeometry s t) : frameBytes t = frameBytes s := by
  obtain ⟨h1, h2, h3, h4, -, -⟩ := h
  simp only [frameBytes, numPanels, h1, h2, h3, h4]

theorem rowBytes_congr {s t : State} (h : SameGeometry s t) : rowBytes t = rowBytes s := by
  simp only [rowBytes, frameBytes_congr h, h.2.2.2.2.1]

theorem chainBits_congr {s t : State} (h : SameGeometry s t) : chainBits t = chainBits s := by
  simp only [chainBits, rowBytes_congr h]

theorem cfgValid_congr {s t : State} (h : SameGeometry s t) : cfgValid t = cfgValid s := by
  have hf := frameBytes_congr h
  obtain ⟨h1, h2, h3, h4, h5, h6⟩ := h
  simp only [cfgValid, direct, binary, hf, h1, h2, h3, h4, h5, h6]

theorem lineMask_congr {s t : State} (h : t.muxcnt = s.muxcnt) : lineMask t = lineMask s := by
  simp only [lineMask, h]

theorem muxLevel_congr {s t : State} (h1 : t.nrows = s.nrows) (h2 : t.muxcnt = s.muxcnt) (h3 : t.selLvl = s.selLvl)
    (i : Nat) : muxLevel t i = muxLevel s i := by
  unfold muxLevel direct lineMask; rw [h1, h2, h3]

theorem tableEntry_congr {s t : State} (h1 : t.nrows = s.nrows) (h2 : t.muxcnt = s.muxcnt) (h3 : t.selLvl = s.selLvl)
    (h4 : t.par = s.par) (i : Nat) : tableEntry t i = tableEntry s i := by
  have h := muxLevel_congr h1 h2 h3
  simp only [tableEntry, rowEntry, h, h1, h4, lineMask_congr h2]

theorem selrow_congr {s t : State} (h1 : t.nrows = s.nrows) (h2 : t.muxcnt = s.muxcnt) (h3 : t.selLvl = s.selLvl)
    (v : Word) : selrow t v = selrow s v := by
  unfold selrow direct selectedLines lineMask; rw [h1, h2, h3]

/-- An entry the table has. -/
theorem muxEntry_ofFn (f : Fin 33 → Word) {i : Nat} (h : i < 33) : muxEntry (Vector.ofFn f) i = f ⟨i, h⟩ := by
  simp [muxEntry, List.getD_eq_getElem?_getD, h]

/-- The generated table, entry by entry (41_mux_table.md R258). -/
theorem generateMuxTable_entry (s : State) {i : Nat} (h : i ≤ 32) :
    muxEntry (generateMuxTable s).muxset i = (tableEntry s i).1 ∧ muxEntry (generateMuxTable s).muxclr i = (tableEntry s i).2 := by
  have h1 : (generateMuxTable s).muxset = Vector.ofFn fun i => (tableEntry s i.val).1 := by unfold generateMuxTable; rfl
  have h2 : (generateMuxTable s).muxclr = Vector.ofFn fun i => (tableEntry s i.val).2 := by unfold generateMuxTable; rfl
  rw [h1, h2, muxEntry_ofFn _ (by omega), muxEntry_ofFn _ (by omega)]
  exact ⟨rfl, rfl⟩

/-! ### A valid configuration -/

/-- The clauses of `cfg_valid` (43_refresh_sequencer.md R322). -/
theorem cfgValid_iff (s : State) : cfgValid s = true ↔
    8 ≤ s.pw.toNat ∧ s.pw.toNat % 8 = 0 ∧ 1 ≤ s.nx.toNat ∧ 1 ≤ s.ny.toNat ∧ 1 ≤ s.nrows.toNat ∧ s.nrows.toNat ≤ 32
      ∧ 1 ≤ s.ph.toNat ∧ s.ph.toNat % s.nrows.toNat = 0 ∧ frameBytes s ≤ 4096
      ∧ (s.muxcnt = s.nrows
        ∨ (1 ≤ s.muxcnt.toNat ∧ s.muxcnt.toNat < s.nrows.toNat ∧ s.nrows.toNat = 2 ^ s.muxcnt.toNat)) := by
  simp [cfgValid, direct, binary, and_assoc]

/-- The rows of a frame fit in it. -/
theorem rows_fit {s : State} (r : Nat) (h : r < s.nrows.toNat) : r * rowBytes s + rowBytes s ≤ frameBytes s := by
  have h1 : (r + 1) * rowBytes s ≤ s.nrows.toNat * rowBytes s := Nat.mul_le_mul_right _ h
  have h2 : s.nrows.toNat * rowBytes s ≤ frameBytes s := Nat.mul_div_le _ _
  rw [Nat.add_mul, Nat.one_mul] at h1
  omega

/-! ### An accepted start -/

@[simp] theorem acceptedStart_bright (s : State) : (acceptedStart s).bright = s.bright := by simp [acceptedStart]
@[simp] theorem acceptedStart_scanUs (s : State) : (acceptedStart s).scanUs = s.scanUs := by simp [acceptedStart]
@[simp] theorem acceptedStart_pw (s : State) : (acceptedStart s).pw = s.pw := by simp [acceptedStart]
@[simp] theorem acceptedStart_ph (s : State) : (acceptedStart s).ph = s.ph := by simp [acceptedStart]
@[simp] theorem acceptedStart_nx (s : State) : (acceptedStart s).nx = s.nx := by simp [acceptedStart]
@[simp] theorem acceptedStart_ny (s : State) : (acceptedStart s).ny = s.ny := by simp [acceptedStart]
@[simp] theorem acceptedStart_nrows (s : State) : (acceptedStart s).nrows = s.nrows := by simp [acceptedStart]
@[simp] theorem acceptedStart_muxcnt (s : State) : (acceptedStart s).muxcnt = s.muxcnt := by simp [acceptedStart]
@[simp] theorem acceptedStart_selLvl (s : State) : (acceptedStart s).selLvl = s.selLvl := by simp [acceptedStart]
@[simp] theorem acceptedStart_dataInv (s : State) : (acceptedStart s).dataInv = s.dataInv := by simp [acceptedStart]
@[simp] theorem acceptedStart_oeLow (s : State) : (acceptedStart s).oeLow = s.oeLow := by simp [acceptedStart]
@[simp] theorem acceptedStart_cfgerr (s : State) : (acceptedStart s).cfgerr = s.cfgerr := by simp [acceptedStart]
@[simp] theorem acceptedStart_berr (s : State) : (acceptedStart s).berr = s.berr := by simp [acceptedStart]
@[simp] theorem acceptedStart_tickcnt (s : State) : (acceptedStart s).tickcnt = s.tickcnt := by simp [acceptedStart]
@[simp] theorem acceptedStart_framecnt (s : State) : (acceptedStart s).framecnt = s.framecnt := by simp [acceptedStart]
@[simp] theorem acceptedStart_store (s : State) : (acceptedStart s).store = s.store := by simp [acceptedStart]
@[simp] theorem acceptedStart_swapReq (s : State) : (acceptedStart s).swapReq = s.swapReq := by simp [acceptedStart]
@[simp] theorem acceptedStart_copyReq (s : State) : (acceptedStart s).copyReq = s.copyReq := by simp [acceptedStart]
@[simp] theorem acceptedStart_copyBusy (s : State) : (acceptedStart s).copyBusy = s.copyBusy := by simp [acceptedStart]
@[simp] theorem acceptedStart_copyIdx (s : State) : (acceptedStart s).copyIdx = s.copyIdx := by simp [acceptedStart]
@[simp] theorem acceptedStart_latLvl (s : State) : (acceptedStart s).latLvl = s.latLvl := by simp [acceptedStart]
@[simp] theorem acceptedStart_par (s : State) : (acceptedStart s).par = s.par := by simp [acceptedStart]
@[simp] theorem acceptedStart_hostq (s : State) : (acceptedStart s).hostq = s.hostq := by simp [acceptedStart]
@[simp] theorem acceptedStart_rdata (s : State) : (acceptedStart s).rdata = s.rdata := by simp [acceptedStart]
@[simp] theorem acceptedStart_turns (s : State) : (acceptedStart s).turns = s.turns := by simp [acceptedStart]
@[simp] theorem acceptedStart_turn (s : State) : (acceptedStart s).turn = s.turn := by simp [acceptedStart]
@[simp] theorem acceptedStart_db (s : State) : (acceptedStart s).db = s.db := by simp [acceptedStart]
@[simp] theorem acceptedStart_front (s : State) : (acceptedStart s).front = s.front := by simp [acceptedStart]
@[simp] theorem acceptedStart_run (s : State) : (acceptedStart s).run = true := by simp [acceptedStart]
@[simp] theorem acceptedStart_reloadPending (s : State) : (acceptedStart s).reloadPending = false := by simp [acceptedStart]
@[simp] theorem acceptedStart_row (s : State) : (acceptedStart s).row = 0 := by simp [acceptedStart]
@[simp] theorem acceptedStart_nm (s : State) : (acceptedStart s).nm = 0 := by simp [acceptedStart]
@[simp] theorem acceptedStart_phase (s : State) : (acceptedStart s).phase = 0 := by simp [acceptedStart]
@[simp] theorem acceptedStart_busy (s : State) : (acceptedStart s).busy = false := by simp [acceptedStart]
@[simp] theorem acceptedStart_cnt (s : State) : (acceptedStart s).cnt = 0 := by simp [acceptedStart]
@[simp] theorem acceptedStart_oeArmed (s : State) : (acceptedStart s).oeArmed = false := by simp [acceptedStart]
@[simp] theorem acceptedStart_onCnt (s : State) : (acceptedStart s).onCnt = 0 := by simp [acceptedStart]
@[simp] theorem acceptedStart_muxPend (s : State) : (acceptedStart s).muxPend = none := by simp [acceptedStart]
@[simp] theorem acceptedStart_muxLvl (s : State) : (acceptedStart s).muxLvl = 0#32 := by simp [acceptedStart]
@[simp] theorem acceptedStart_muxset (s : State) : (acceptedStart s).muxset = (generateMuxTable s).muxset := by simp [acceptedStart]
@[simp] theorem acceptedStart_muxclr (s : State) : (acceptedStart s).muxclr = (generateMuxTable s).muxclr := by simp [acceptedStart]
@[simp] theorem acceptedStart_div (s : State) : (acceptedStart s).div = (computeTiming s.par.fTimerHz s.par.timerWidth s.par.divMax s.scanUs.toNat).div := by simp [acceptedStart]
@[simp] theorem acceptedStart_period (s : State) : (acceptedStart s).period = (computeTiming s.par.fTimerHz s.par.timerWidth s.par.divMax s.scanUs.toNat).period := by simp [acceptedStart]
@[simp] theorem acceptedStart_achUs (s : State) : (acceptedStart s).achUs = BitVec.ofNat 32 (computeTiming s.par.fTimerHz s.par.timerWidth s.par.divMax s.scanUs.toNat).achUs := by simp [acceptedStart]

end Sys2Proof.Machine
end

