-- ==== Sys2Proof/Laws/Sequencer.lean ====
section
/-! SUPPORT. Each step of the row timer and of the sequencer as one update of the state it starts from. -/

namespace Sys2Proof.Machine

/-- TIMER step before the end of the row period (43_refresh_sequencer.md R330). -/
theorem timerStep_count {s : State} (h : s.cnt + 1 < s.period) : timerStep s = { s with cnt := s.cnt + 1 } := by
  simp [timerStep, tickDue, h]

/-- TIMER step at the end of the row period, with no reload pending (R330). -/
theorem timerStep_tick {s : State} (h : ¬s.cnt + 1 < s.period) (hp : s.reloadPending = false) :
    timerStep s = { s with cnt := 0, tickcnt := s.tickcnt + 1#32, busy := true } := by
  simp [timerStep, tickDue, h, hp, enterBurst]

/-- TIMER step at the end of the row period, with a reload pending (R330, R331). -/
theorem timerStep_reload {s : State} (h : ¬s.cnt + 1 < s.period) (hp : s.reloadPending = true) :
    timerStep s = { s with
      cnt := 0, tickcnt := s.tickcnt + 1#32, busy := true, reloadPending := false
      div := (computeTiming s.par.fTimerHz s.par.timerWidth s.par.divMax s.scanUs.toNat).div
      period := (computeTiming s.par.fTimerHz s.par.timerWidth s.par.divMax s.scanUs.toNat).period
      achUs := BitVec.ofNat 32 (computeTiming s.par.fTimerHz s.par.timerWidth s.par.divMax s.scanUs.toNat).achUs } := by
  simp [timerStep, tickDue, h, hp, enterBurst, applyReload, loadTiming]

theorem appliedLevels_congr {s t : State} (h1 : t.muxLvl = s.muxLvl) (h2 : t.muxset = s.muxset) (h3 : t.muxclr = s.muxclr)
    (k : Nat) : appliedLevels t k = appliedLevels s k := by
  unfold appliedLevels; rw [h1, h2, h3]

/-- SEQ phase 0 under REG (R340, 45_backends.md R441). -/
theorem seqPhase0_reg {s : State} (h : s.par.backend = .reg) : seqPhase0 s = { s with
    trace := s.trace ++ [.oeOff, .muxSet (appliedLevels s s.nm)]
    muxLvl := appliedLevels s s.nm
    oeArmed := false, onCnt := lightCounts s, phase := 1 } := by
  simp [seqPhase0, applyMux, h, driveMux, emit, appliedLevels, lightCounts]

/-- SEQ phase 0 under PIO (R340, 45_backends.md R441). -/
theorem seqPhase0_pio {s : State} (h : s.par.backend = .pio) : seqPhase0 s = { s with
    trace := s.trace ++ [.oeOff]
    muxPend := some (muxEntry s.muxset s.nm).toNat
    oeArmed := false, onCnt := lightCounts s, phase := 1 } := by
  simp [seqPhase0, applyMux, h, emit, lightCounts]

/-- SEQ phase 1 (R342, 45_backends.md R433, R451). -/
theorem seqPhase1_eq (s : State) : seqPhase1 s = { s with
    trace := s.trace ++ [.latch, .oeOn s.onCnt]
    latLvl := false, panelLr := s.panelSr, oeArmed := true, phase := 2 } := by
  simp only [seqPhase1, emit, List.append_assoc, List.cons_append, List.nil_append]

/-- SEQ phase 2 (R344, 44_swap_arbiter.md R383). -/
theorem seqPhase2_eq (s : State) : seqPhase2 s =
    if s.row = s.nrows.toNat - 1 then
      if s.swapReq then
        { s with
          framecnt := s.framecnt + 1#32, phase := 3
          front := 1 - s.front, swapReq := false, copyReq := false
          copyBusy := s.copyBusy || s.copyReq
          copyIdx := if s.copyReq then 0 else s.copyIdx }
      else { s with framecnt := s.framecnt + 1#32, phase := 3 }
    else { s with phase := 3 } := by
  by_cases h : s.row = s.nrows.toNat - 1 <;> cases hs : s.swapReq <;>
    simp [seqPhase2, atBoundary, h, hs, exchange]

/-- SEQ phase 3 under REG (R348, 45_backends.md R431). -/
theorem seqPhase3_reg {s : State} (h : s.par.backend = .reg) : seqPhase3 s = { s with
    nm := s.row + 1, row := nextRow s, phase := 0, busy := false
    trace := s.trace ++ (rowLevels (fslot s) (nextRow s * rowBytes s) (rowBytes s) s).map .bit
    dataLvl := (rowLevels (fslot s) (nextRow s * rowBytes s) (rowBytes s) s).getLast?.getD s.dataLvl
    clkLvl := s.clkLvl && (rowLevels (fslot s) (nextRow s * rowBytes s) (rowBytes s) s).isEmpty
    panelSr := shiftIn (rowLevels (fslot s) (nextRow s * rowBytes s) (rowBytes s) s) s.panelSr } := by
  simp only [seqPhase3, leaveBurst, shiftRow, h, shiftRowReg_eq]

/-- SEQ phase 3 under PIO (R348, 45_backends.md R434). -/
theorem seqPhase3_pio {s : State} (h : s.par.backend = .pio) : seqPhase3 s = { s with
    nm := s.row + 1, row := nextRow s, phase := 0, busy := false
    shSlot := fslot s, shSrc := nextRow s * rowBytes s, shRem := rowBytes s } := by
  simp only [seqPhase3, leaveBurst, shiftRow, h, shiftRowPio]

/-- SEQ step, phase by phase (R350). -/
theorem seqStep_zero {s : State} (h : s.phase = 0) : seqStep s = seqPhase0 s := by simp [seqStep, h]

theorem seqStep_one {s : State} (h : s.phase = 1) : seqStep s = seqPhase1 s := by simp [seqStep, h]

theorem seqStep_two {s : State} (h : s.phase = 2) : seqStep s = seqPhase2 s := by simp [seqStep, h]

theorem seqStep_three {s : State} (h : s.phase = 3) : seqStep s = seqPhase3 s := by simp [seqStep, h]

/-- The phase counter has four values (10_state.md R48). -/
theorem phase_cases (p : Fin 4) : p = 0 ∨ p = 1 ∨ p = 2 ∨ p = 3 := by
  revert p; decide

end Sys2Proof.Machine
end

