-- ==== Sys2Proof/Tests/Slice0.lean ====
section
/-! SUPPORT. The model's own tests: ill-formed terms, words written out from the spec's encoding, one-step checks whose
expected values are those of the spec's examples and vectors (40_host_registers.md, 42_buffer_access.md,
95_test_vectors.md), and for each obligation with hypotheses a state that meets them. -/

namespace Sys2Proof.Tests

open Sys2Proof Sys2Proof.Machine

/-! ### States the tests start from -/

/-- The parameters of the vectors (95_test_vectors.md section 0), under REG. -/
def regParams : Params := ⟨.reg, 999999, 15, 65535, 0⟩

/-- The parameters of the vectors, under PIO. -/
def pioParams : Params := ⟨.pio, 999999, 15, 65535, 0⟩

/-- The reset state of the vectors. -/
def r0 : State := State.resetAt regParams 0

/-- The reset state of the vectors, under PIO. -/
def p0 : State := State.resetAt pioParams 0

/-- Slot 1 after the writes of 95_test_vectors.md section 2.3, steps 1 and 4. -/
def drawn : State :=
  { r0 with store := [(4098, 0xCD#8), (4099, 0xAB#8), (4104, 0x44#8), (4105, 0x33#8), (4106, 0x22#8), (4107, 0x11#8)] }

/-- The field `f` of the state an outcome ends in. -/
def after {α : Type} (o : Host.Outcome State Fault Refusal) (f : State → α) : Option α :=
  match o with
  | .next t => some (f t)
  | .fault _ => none
  | .refused _ => none

/-- The response an outcome leaves. -/
def response (o : Host.Outcome State Fault Refusal) : Option (Option Word) := after o fun t => t.rdata

/-! ### Well-formedness: each check refuses an ill-formed term -/

theorem test_wf_rd16Back : (Instr.rd16Back 1#12).wellFormed = false := by decide
theorem test_wf_rd32Back : (Instr.rd32Back 2#12).wellFormed = false := by decide
theorem test_wf_wr16Back : (Instr.wr16Back 0xFFF#12 0#32).wellFormed = false := by decide
theorem test_wf_wr32Back : (Instr.wr32Back 1#12 0#32).wellFormed = false := by decide
theorem test_wf_rd16Front : (Instr.rd16Front 3#12).wellFormed = false := by decide
theorem test_wf_rd32Front : (Instr.rd32Front 0xFFE#12).wellFormed = false := by decide

/-! ### Decoding: one word for each constructor, written out as `SZ << 48 | WR << 47 | OFF << 32 | DATA` (R150) -/

theorem test_decode_rdId : decode 0x2000000000000#50 = .ok .rdId := by decide
theorem test_decode_rdCtrl : decode 0x2000400000000#50 = .ok .rdCtrl := by decide
theorem test_decode_wrCtrl : decode 0x2800400000003#50 = .ok (.wrCtrl 3#32) := by decide
theorem test_decode_rdStatus : decode 0x2000800000000#50 = .ok .rdStatus := by decide
theorem test_decode_wrStatus : decode 0x28008000000C0#50 = .ok (.wrStatus 0xC0#32) := by decide
theorem test_decode_rdBright : decode 0x2000C00000000#50 = .ok .rdBright := by decide
theorem test_decode_wrBright : decode 0x2800C000001FF#50 = .ok (.wrBright 0x1FF#32) := by decide
theorem test_decode_rdSwap : decode 0x2001000000000#50 = .ok .rdSwap := by decide
theorem test_decode_wrSwap : decode 0x2801000000003#50 = .ok (.wrSwap 3#32) := by decide
theorem test_decode_rdScanUs : decode 0x2001400000000#50 = .ok .rdScanUs := by decide
theorem test_decode_wrScanUs : decode 0x28014000003E8#50 = .ok (.wrScanUs 1000#32) := by decide
theorem test_decode_rdScanAch : decode 0x2001800000000#50 = .ok .rdScanAch := by decide
theorem test_decode_rdDiv : decode 0x2001C00000000#50 = .ok .rdDiv := by decide
theorem test_decode_rdPeriod : decode 0x2002000000000#50 = .ok .rdPeriod := by decide
theorem test_decode_rdOncnt : decode 0x2002400000000#50 = .ok .rdOncnt := by decide
theorem test_decode_rdTickcnt : decode 0x2002800000000#50 = .ok .rdTickcnt := by decide
theorem test_decode_rdFramecnt : decode 0x2002C00000000#50 = .ok .rdFramecnt := by decide
theorem test_decode_rdGeom0 : decode 0x2003000000000#50 = .ok .rdGeom0 := by decide
theorem test_decode_wrGeom0 : decode 0x2803000110810#50 = .ok (.wrGeom0 0x00110810#32) := by decide
theorem test_decode_rdGeom1 : decode 0x2003400000000#50 = .ok .rdGeom1 := by decide
theorem test_decode_wrGeom1 : decode 0x2803400000204#50 = .ok (.wrGeom1 0x204#32) := by decide
theorem test_decode_rdPol : decode 0x2003800000000#50 = .ok .rdPol := by decide
theorem test_decode_wrPol : decode 0x28038FFFFFFF9#50 = .ok (.wrPol 0xFFFFFFF9#32) := by decide
theorem test_decode_rdMuxset : decode 0x2010400000000#50 = .ok (.rdMuxset 1#5) := by decide
theorem test_decode_rdMuxset32 : decode 0x2018000000000#50 = .ok .rdMuxset32 := by decide
theorem test_decode_rdMuxclr : decode 0x2020400000000#50 = .ok (.rdMuxclr 1#5) := by decide
theorem test_decode_rdMuxclr32 : decode 0x2028000000000#50 = .ok .rdMuxclr32 := by decide
theorem test_decode_rd8Back : decode 0x0100900000000#50 = .ok (.rd8Back 9#12) := by decide
theorem test_decode_rd16Back : decode 0x1100A00000000#50 = .ok (.rd16Back 10#12) := by decide
theorem test_decode_rd32Back : decode 0x2100000000000#50 = .ok (.rd32Back 0#12) := by decide
theorem test_decode_wr8Back : decode 0x09FFF0000005A#50 = .ok (.wr8Back 0xFFF#12 0x5A#32) := by decide
theorem test_decode_wr16Back : decode 0x190020000ABCD#50 = .ok (.wr16Back 2#12 0xABCD#32) := by decide
theorem test_decode_wr32Back : decode 0x2900811223344#50 = .ok (.wr32Back 8#12 0x11223344#32) := by decide
theorem test_decode_rd8Front : decode 0x02FFF00000000#50 = .ok (.rd8Front 0xFFF#12) := by decide
theorem test_decode_rd16Front : decode 0x1200000000000#50 = .ok (.rd16Front 0#12) := by decide
theorem test_decode_rd32Front : decode 0x2200800000000#50 = .ok (.rd32Front 8#12) := by decide

/-- R160: a misaligned halfword, a byte access of a register, a write to a read-only one, a reserved offset. -/
theorem test_decode_rejects : decode 0x1100100000000#50 = .error .misalignedBuffer
    ∧ decode 0x0000400000000#50 = .error .registerNotWord ∧ decode 0x2800000000000#50 = .error .readOnlyRegister
    ∧ decode 0x2003C00000000#50 = .error .unlistedOffset ∧ decode 0x2300000000000#50 = .error .unlistedOffset
    ∧ decode 0x2000600000000#50 = .error .misalignedRegister := by decide

/-- The table's numbering: 50 bits are given as 56. -/
theorem test_decodeTableWord : decodeTableWord 56 0x2028000000000 = some .rdMuxclr32 := by decide

/-! ### One transaction on a small state: values of 40_host_registers.md and 95_test_vectors.md section 2 -/

theorem test_rdId : response (exec .rdId r0) = some (some 0x00201000#32) := by decide
theorem test_rdId_pio : response (exec .rdId p0) = some (some 0x00201001#32) := by decide
theorem test_rdCtrl : response (exec .rdCtrl r0) = some (some 2#32) := by decide
theorem test_wrCtrl_start : after (exec (.wrCtrl 3#32) r0) (fun t => (t.run, t.period, t.trace.length)) = some (true, 2000, 65) := by
  decide
theorem test_wrCtrl_refused : after (exec (.wrCtrl 1#32) { r0 with copyBusy := true }) (fun t => (t.berr, t.run, t.cfgerr, t.db))
    = some (true, false, false, true)
    ∧ after (exec (.wrCtrl 0#32) { r0 with run := true, swapReq := true, copyReq := true })
      (fun t => (t.berr, t.run, t.swapReq, t.front, t.copyBusy)) = some (true, true, true, 0, false) := by decide
theorem test_rdStatus : response (exec .rdStatus { r0 with run := true, swapReq := true, row := 5 }) = some (some 0x503#32) := by
  decide
theorem test_wrStatus : after (exec (.wrStatus 0x80#32) { r0 with cfgerr := true, berr := true }) (fun t => (t.cfgerr, t.berr))
    = some (true, false) := by decide
theorem test_rdBright : response (exec .rdBright r0) = some (some 0xFF#32) := by decide
theorem test_wrBright : after (exec (.wrBright 0x180#32) r0) (fun t => t.bright) = some 0x80#8 := by decide
theorem test_rdSwap : response (exec .rdSwap { r0 with swapReq := true }) = some (some 0#32) := by decide
theorem test_wrSwap : after (exec (.wrSwap 3#32) r0) (fun t => (t.front, t.copyBusy, t.swapReq)) = some (1, true, false) := by
  decide
theorem test_wrSwap_copyOnly : exec (.wrSwap 2#32) r0 = .next r0 := by rfl
theorem test_rdScanUs : response (exec .rdScanUs r0) = some (some 2000#32) := by decide
theorem test_wrScanUs : after (exec (.wrScanUs 1000#32) { r0 with run := true, period := 2000 })
    (fun t => (t.scanUs, t.reloadPending, t.period)) = some (1000#32, true, 2000) := by decide
theorem test_rdScanAch : response (exec .rdScanAch { r0 with achUs := 65538#32 }) = some (some 65538#32) := by decide
theorem test_rdDiv : response (exec .rdDiv { r0 with div := 3 }) = some (some 3#32) := by decide
theorem test_rdPeriod : response (exec .rdPeriod { r0 with period := 48000 }) = some (some 48000#32) := by decide
theorem test_rdOncnt : response (exec .rdOncnt { r0 with onCnt := 1003 }) = some (some 1003#32) := by decide
theorem test_rdTickcnt : response (exec .rdTickcnt { r0 with tickcnt := 3#32 }) = some (some 3#32) := by decide
theorem test_rdFramecnt : response (exec .rdFramecnt { r0 with framecnt := 9#32 }) = some (some 9#32) := by decide
theorem test_rdGeom0 : response (exec .rdGeom0 r0) = some (some 0x00121020#32) := by decide
theorem test_wrGeom0 : after (exec (.wrGeom0 0x00110810#32) r0) (fun t => (t.pw, t.ph, t.nx, t.ny)) = some (16#8, 8#8, 1#4, 1#4) := by
  decide
theorem test_rdGeom1 : response (exec .rdGeom1 r0) = some (some 0x1010#32) := by decide
theorem test_wrGeom1 : after (exec (.wrGeom1 0x305#32) r0) (fun t => (t.nrows, t.muxcnt)) = some (5#6, 3#6) := by decide
theorem test_rdPol : response (exec .rdPol { r0 with oeLow := true }) = some (some 4#32) := by decide
theorem test_wrPol : after (exec (.wrPol 0xFFFFFFF9#32) r0) (fun t => (t.selLvl, t.dataInv, t.oeLow)) = some (true, false, false) := by
  decide
theorem test_wrPol_running : after (exec (.wrPol 1#32) { r0 with run := true }) (fun t => (t.selLvl, t.berr)) = some (false, true) := by
  decide
theorem test_rdMuxset : response (exec (.rdMuxset 1#5) (generateMuxTable r0)) = some (some 0xFFFD#32) := by decide
theorem test_rdMuxset_sentinel : response (exec (.rdMuxset 16#5) (generateMuxTable r0)) = some (some 0xFFFE#32) := by decide
theorem test_rdMuxset32 : response (exec .rdMuxset32 (generateMuxTable { r0 with nrows := 32#6, muxcnt := 32#6 }))
    = some (some 0xFFFFFFFE#32) := by decide
theorem test_rdMuxclr : response (exec (.rdMuxclr 1#5) (generateMuxTable r0)) = some (some 2#32) := by decide
theorem test_rdMuxclr32 : response (exec .rdMuxclr32 (generateMuxTable r0)) = some (some 0#32) := by decide
theorem test_rd8Back : response (exec (.rd8Back 9#12) drawn) = some (some 0x33#32) := by decide
theorem test_rd16Back : response (exec (.rd16Back 10#12) drawn) = some (some 0x1122#32) := by decide
theorem test_rd32Back : response (exec (.rd32Back 0#12) drawn) = some (some 0xABCD0000#32) := by decide
theorem test_wr8Back : after (exec (.wr8Back 0xFFF#12 0x15A#32) r0) (fun t => t.store) = some [(8191, 0x5A#8)] := by decide
theorem test_wr16Back : after (exec (.wr16Back 2#12 0xABCD#32) r0) (fun t => t.store) = some [(4098, 0xCD#8), (4099, 0xAB#8)] := by
  decide
theorem test_wr32Back : after (exec (.wr32Back 8#12 0x11223344#32) r0) (fun t => t.store)
    = some [(4104, 0x44#8), (4105, 0x33#8), (4106, 0x22#8), (4107, 0x11#8)] := by decide
theorem test_wr32Back_single : after (exec (.wr32Back 8#12 0x7F00#32) { r0 with db := false }) (fun t => t.store)
    = some [(9, 0x7F#8)] := by decide
theorem test_rd8Front : response (exec (.rd8Front 9#12) { drawn with front := 1 }) = some (some 0x33#32) := by decide
theorem test_rd16Front : response (exec (.rd16Front 0#12) { r0 with store := [(0, 0xFF#8)] }) = some (some 0xFF#32) := by decide
theorem test_rd32Front : response (exec (.rd32Front 8#12) { drawn with front := 1 }) = some (some 0x11223344#32) := by decide

/-! ### One step of an agent, and the functions behind them -/

/-- R330: the last count of the period is the tick. -/
theorem test_timer_ticks : after (takeTurn (.agent .timer) { r0 with run := true, period := 3, cnt := 2 })
    (fun t => (t.cnt, t.busy, t.tickcnt)) = some (0, true, 1#32) := by decide

/-- R340: REG, direct mux, `SEL_LVL = 0`, 4 rows, entry 1 applied to `0xE`. -/
theorem test_phase0 : after (takeTurn (.agent .seq) (generateMuxTable
    { r0 with run := true, busy := true, nrows := 4#6, muxcnt := 4#6, nm := 1, muxLvl := 0xE#32 })) (fun t => t.muxLvl)
    = some 0xD#32 := by decide

/-- R388: the byte 4095 ends the copy. -/
theorem test_copy_ends : after (takeTurn (.agent .copy)
    { r0 with copyBusy := true, copyIdx := 4095, store := [(4095, 0x5A#8)] }) (fun t => (t.copyBusy, t.copyIdx, t.store))
    = some (false, 4096, [(4095, 0x5A#8), (8191, 0x5A#8)]) := by decide

/-- 95_test_vectors.md section 2.9: the SHIFT step of the byte `0x01`. -/
theorem test_shift : after (takeTurn (.agent .shift) { p0 with shRem := 1, store := [(0, 1#8)] })
    (fun t => (t.shRem, t.dataLvl, t.trace)) = some (0, true,
      [.bit false, .bit false, .bit false, .bit false, .bit false, .bit false, .bit false, .bit true]) := by decide

/-- R440: binary mux, 3 lines, row 5. -/
theorem test_muxsm : after (takeTurn (.agent .muxsm) { p0 with nrows := 8#6, muxcnt := 3#6, muxPend := some 5 })
    (fun t => (t.muxLvl, t.muxPend)) = some (5#32, none) := by decide

/-- 95_test_vectors.md section 2.5. -/
theorem test_timing : computeTiming 1000000 16 65536 65537 = ⟨2, 32769, 65538⟩
    ∧ computeTiming 72000000 16 65536 0 = ⟨1, 1, 0⟩ ∧ computeTiming 1 16 65536 1 = ⟨1, 1, 1000000⟩
    ∧ computeTiming 72000000 16 65536 0xFFFFFFFF = ⟨65536, 65536, 59652324⟩ := by decide

/-- 95_test_vectors.md section 1, E2. -/
theorem test_pixAddr : pixAddr r0 32 0 = ⟨4, 7⟩ ∧ pixAddr r0 0 1 = ⟨8, 7⟩ ∧ pixAddr r0 63 15 = ⟨127, 0⟩ := by decide

/-- 95_test_vectors.md section 2.10. -/
theorem test_cfgValid : cfgValid { r0 with nrows := 16#6, muxcnt := 4#6 } = true
    ∧ cfgValid { r0 with pw := 36#8 } = false ∧ cfgValid { r0 with ph := 0#8 } = false
    ∧ cfgValid { r0 with nx := 15#4, ny := 15#4 } = false := by decide

/-- The transaction laid where the step fetches is the one the next step performs. -/
theorem test_withFetchWord : after (step (r0.withFetchWord 56 0x2800C00000012)) (fun t => t.bright) = some 0x12#8 := by decide

/-! ### Witnesses: a state and operands that meet the hypotheses of each obligation, at the ends of each clause's range -/

/-- Two rows of one byte, a binary mux: stopped. -/
def tiny : State :=
  generateMuxTable { r0 with
    pw := 8#8, ph := 2#8, nx := 1#4, ny := 1#4, nrows := 2#6, muxcnt := 1#6, div := 1, period := 2
    panelSr := List.replicate 8 false, panelLr := List.replicate 8 false }

/-- Running, at the start of the burst of the last row, with a swap and its copy asked for, and the sequencer's turn. -/
def burst : State :=
  { tiny with run := true, busy := true, row := 1, nm := 1, swapReq := true, copyReq := true, turns := [.agent .seq] }

/-- The burst under PIO, in phase 1, with the mux lines and the row's byte still to be driven. -/
def pioBurst : State :=
  { generateMuxTable { tiny with par := pioParams } with
    run := true, busy := true, row := 1, nm := 1, phase := 1, muxPend := some 1, shRem := 1, shSrc := 1 }

/-- Between bursts, with row 0 latched, its first pixel lit, and brightness 128. -/
def shown : State :=
  { tiny with
    run := true, row := 1, nm := 1, oeArmed := true, onCnt := 1, bright := 128#8
    panelLr := true :: List.replicate 7 false, turns := [.agent .timer] }

/-- A copy at its last byte. -/
def copying : State := { r0 with copyBusy := true, copyIdx := 4095, store := [(4095, 0x5A#8)] }

/-- The host about to issue `w`. -/
def issuing (s : State) (w : Transaction) : State := { s with hostq := [w], turns := [.agent .host] }

/-- The agents in turn. -/
def roundRobin (n : Nat) : Turn :=
  match n % 6 with
  | 0 => .agent .host
  | 1 => .agent .timer
  | 2 => .agent .seq
  | 3 => .agent .copy
  | 4 => .agent .shift
  | _ => .agent .muxsm

theorem roundRobin_noReset : NoReset roundRobin := by
  intro n
  unfold roundRobin
  split <;> simp

theorem roundRobin_fair (s : State) : WeaklyFair roundRobin s := by
  intro a n _
  cases a
  · exact ⟨6 * n, by omega, by unfold roundRobin; simp⟩
  · exact ⟨6 * n + 1, by omega, by unfold roundRobin; simp⟩
  · exact ⟨6 * n + 2, by omega, by unfold roundRobin; simp⟩
  · exact ⟨6 * n + 3, by omega, by unfold roundRobin; simp⟩
  · exact ⟨6 * n + 4, by omega, by unfold roundRobin; simp⟩
  · exact ⟨6 * n + 5, by omega, by unfold roundRobin; simp⟩

theorem burst_spec : SpecInvariant burst :=
  ⟨by decide, by decide, by decide, by decide, by decide, by decide⟩

theorem burst_range : InRange burst :=
  ⟨by decide, by decide, by decide, by decide, by decide, by decide, by decide, by decide, by decide, by decide,
    (by intro i h; cases h), by decide, by decide, by decide⟩

theorem burst_coherent : Coherent burst :=
  ⟨by decide, by decide, by decide, by decide, (by intro i h; cases h), by decide, by decide, by decide, by decide⟩

theorem burst_invariant : Invariant burst := ⟨burst_spec, burst_range, burst_coherent⟩

theorem burst_selects : SelectsRow burst := ⟨by decide, by decide⟩

theorem shown_invariant : Invariant shown where
  spec := ⟨by decide, by decide, by decide, by decide, by decide, by decide⟩
  range := ⟨by decide, by decide, by decide, by decide, by decide, by decide, by decide, by decide, by decide, by decide,
    (by intro i h; cases h), by decide, by decide, by decide⟩
  coherent := ⟨by decide, by decide, by decide, by decide, (by intro i h; cases h), by decide, by decide, by decide, by decide⟩

theorem shown_selects : SelectsRow shown := ⟨by decide, by decide⟩

theorem witness_DecodeOfEncode : (Instr.wr32Back 0xFFC#12 0xFFFFFFFF#32).wellFormed = true
    ∧ (Instr.rd16Front 0xFFE#12).wellFormed = true := by decide
theorem witness_EncodeOfDecode : decode 0x2800400000003#50 = .ok (.wrCtrl 3#32) ∧ isWrite 0x2800400000003#50 = true
    ∧ decode 0x20000FFFFFFFF#50 = .ok .rdId ∧ isWrite 0x20000FFFFFFFF#50 = false := by decide
theorem witness_StepTakesScheduledTurn : burst.turns = [.agent .seq] ∧ r0.turns = [] := by decide
theorem witness_StepRunsDecodedTransaction : (issuing r0 0x2000000000000#50).turns = .agent .host :: []
    ∧ (issuing r0 0x2000000000000#50).busy = false ∧ (issuing r0 0x2000000000000#50).hostq = 0x2000000000000#50 :: []
    ∧ decode 0x2000000000000#50 = .ok .rdId ∧ decodeTableWord 56 0x2000000000000 = some .rdId := by decide
theorem witness_IllegalTransactionSetsOnlyBerr : (issuing r0 0x0A00000000001#50).busy = false
    ∧ (issuing r0 0x0A00000000001#50).hostq = 0x0A00000000001#50 :: []
    ∧ decode 0x0A00000000001#50 = .error .frontWindowWrite ∧ isWrite 0x0A00000000001#50 = true
    ∧ decode 0x3000000000000#50 = .error .reservedSize ∧ isWrite 0x3000000000000#50 = false := by decide
theorem witness_DisabledAgentHolds : enabled .host r0 = false ∧ enabled .timer burst = false ∧ enabled .seq pioBurst = false
    ∧ enabled .copy r0 = false ∧ enabled .shift burst = false ∧ enabled .muxsm burst = false := by decide
theorem witness_IdentityControlStatusReads : { r0 with row := 31 }.row < 32 ∧ r0.row < 32 := by decide
theorem witness_TimingAndCounterReads : ∃ s : State, s.div < 2 ^ 32 ∧ s.period < 2 ^ 32 ∧ s.onCnt < 2 ^ 32 ∧ s.div = 2 ^ 32 - 1 :=
  ⟨{ r0 with div := 4294967295, period := 4294967295, onCnt := 4294967295 }, by decide, by decide, by decide, by decide⟩
theorem witness_BufferReadsLittleEndian : (0xFFE#12).toNat % 2 = 0 ∧ (0xFFC#12).toNat % 4 = 0 ∧ (0#12).toNat % 4 = 0 := by decide
theorem witness_BufferWritesStoreBytes : Memory.wf drawn.store = true
    ∧ ((1 : Nat) = 1 ∧ Instr.wr8Back 0xFFF#12 1#32 = .wr8Back 0xFFF#12 1#32)
    ∧ (0xFFE#12).toNat % 2 = 0 ∧ (0xFFC#12).toNat % 4 = 0 := by decide
theorem witness_MixedWidthAccess : Memory.wf drawn.store = true ∧ (0xFFC#12).toNat % 4 = 0
    ∧ ∃ t, exec (.wr32Back 0xFFC#12 0x11223344#32) drawn = .next t := ⟨by decide, by decide, exec_next _ _⟩
theorem witness_MisalignedFormsAreBusErrors : (0xFFF#12).toNat % 2 ≠ 0 ∧ (1#12).toNat % 4 ≠ 0 ∧ (0xFFE#12).toNat % 4 ≠ 0 := by decide
theorem witness_ConfigurationWrites : r0.run = false ∧ burst.run = true := by decide
theorem witness_SwapRequests : (2#32).getLsbD 0 = false ∧ { r0 with db := false }.db = false ∧ burst.swapReq = true
    ∧ copying.copyBusy = true
    ∧ ((3#32).getLsbD 0 = true ∧ r0.db = true ∧ r0.swapReq = false ∧ r0.copyBusy = false ∧ r0.run = false)
    ∧ (shown.db = true ∧ shown.swapReq = false ∧ shown.copyBusy = false ∧ shown.run = true) := by decide
theorem witness_ControlWritesWithoutStartOrStop : (burst.run = true ∧ (3#32).getLsbD 0 = true ∧ (3#32).getLsbD 1 = burst.db)
    ∧ (copying.run = false ∧ (1#32).getLsbD 1 ≠ copying.db ∧ copying.copyBusy = true)
    ∧ (r0.run = false ∧ (2#32).getLsbD 0 = false ∧ (2#32).getLsbD 1 = r0.db)
    ∧ ((0#32).getLsbD 0 = false ∧ (0#32).getLsbD 1 ≠ r0.db ∧ r0.copyBusy = false) := by decide
theorem witness_RefusedStart : let s := { r0 with nrows := 5#6, muxcnt := 3#6 }
    s.run = false ∧ (3#32).getLsbD 0 = true ∧ cfgValid s = false ∧ (3#32).getLsbD 1 = s.db
    ∧ (1#32).getLsbD 1 ≠ s.db ∧ s.copyBusy = false ∧ s.nrows = 5#6 ∧ s.muxcnt = 3#6 := by decide
theorem witness_AcceptedStart : r0.run = false ∧ (3#32).getLsbD 0 = true ∧ cfgValid r0 = true ∧ cfgValid tiny = true
    ∧ (3#32).getLsbD 1 = r0.db ∧ r0.copyBusy = false ∧ r0.par.backend = .reg ∧ p0.par.backend = .pio ∧ cfgValid p0 = true
    ∧ tiny.panelSr.length = chainBits tiny ∧ tiny.panelLr.length = chainBits tiny
    ∧ p0.panelSr.length = chainBits p0 ∧ p0.panelLr.length = chainBits p0 := by decide
theorem witness_StopClearsTheRun : (let s := { shown with swapReq := true, copyReq := true }
      s.run = true ∧ (0#32).getLsbD 0 = false ∧ (0#32).getLsbD 1 ≠ s.db ∧ (s.copyBusy || (s.swapReq && s.copyReq)) = true
        ∧ (2#32).getLsbD 0 = false ∧ (2#32).getLsbD 1 = s.db)
    ∧ (shown.run = true ∧ (0#32).getLsbD 1 ≠ shown.db ∧ (shown.copyBusy || (shown.swapReq && shown.copyReq)) = false) := by decide
theorem witness_TimerStepCountsOrTicks : (shown.run = true ∧ shown.busy = false ∧ shown.cnt + 1 < shown.period)
    ∧ (¬({ shown with cnt := 1 }.cnt + 1 < { shown with cnt := 1 }.period) ∧ shown.reloadPending = false)
    ∧ { shown with cnt := 1, reloadPending := true }.reloadPending = true := by decide
theorem witness_TickCountChangesOnlyAtTicks : (Turn.agent .timer ≠ .reset ∧ ¬({ shown with cnt := 1 }.cnt + 1 < shown.period))
    ∧ (∃ t, takeTurn (.agent .timer) { shown with cnt := 1 } = .next t) ∧ ∃ t, takeTurn (.agent .seq) burst = .next t :=
  ⟨by decide, takeTurn_next _ _, takeTurn_next _ _⟩
theorem witness_RowTimingInRange : wantedCycles 1000000 65536 ≤ 2 ^ 16 ∧ 1 * 2 ^ 16 < wantedCycles 1000000 65537 := by decide
theorem witness_LightWindowFollowsBrightness : (burst.run = true ∧ burst.busy = true ∧ burst.phase = 0)
    ∧ burst.bright = 255#8 ∧ { burst with bright := 0#8 }.bright = 0#8 ∧ { burst with bright := 254#8 }.bright ≠ 255#8
    ∧ 0 < burst.period ∧ ∃ t, takeTurn (.agent .seq) burst = .next t :=
  ⟨by decide, by decide, by decide, by decide, by decide, takeTurn_next _ _⟩
theorem witness_OutputEnableWindow : r0.run = false ∧ burst.busy = true ∧ r0.oeArmed = false
    ∧ shown.run = true ∧ shown.busy = false ∧ shown.oeArmed = true := by decide
theorem witness_PhaseZeroSelectsRow : burst.run = true ∧ burst.busy = true ∧ burst.phase = 0
    ∧ burst.muxset[burst.nm]? = some 1#32 ∧ burst.muxclr[burst.nm]? = some 0#32 ∧ burst.par.backend = .reg
    ∧ pioBurst.muxset[pioBurst.nm]? = some 1#32 ∧ pioBurst.par.backend = .pio := by decide
theorem witness_PhaseOneLatches : { burst with phase := 1 }.phase = 1 ∧ burst.par.backend = .reg
    ∧ (pioBurst.run = true ∧ pioBurst.busy = true ∧ pioBurst.phase = 1 ∧ pioBurst.par.backend = .pio ∧ pioBurst.muxPend ≠ none)
    ∧ (({ pioBurst with muxPend := none, shRem := 0 } : State).muxPend = none) := by decide
theorem witness_PhaseTwoSwapsAtBoundary : let s := { burst with phase := 2 }
    (s.run = true ∧ s.busy = true ∧ s.phase = 2 ∧ s.row = s.nrows.toNat - 1 ∧ s.swapReq = true)
    ∧ { s with swapReq := false }.swapReq = false ∧ { s with row := 0 }.row ≠ s.nrows.toNat - 1 := by decide
theorem witness_PhaseThreeAdvances : let s := { burst with phase := 3 }
    s.run = true ∧ s.busy = true ∧ s.phase = 3 ∧ s.par.backend = .reg ∧ s.panelSr.length = chainBits s
    ∧ { s with par := pioParams }.par.backend = .pio
    ∧ (rowLevels (fslot s) ((s.row + 1) % s.nrows.toNat * rowBytes s) (rowBytes s) s).getLast? = some false := by decide
theorem witness_PhasesAreCyclic : (Turn.agent .seq ≠ .reset ∧ burst.busy = true ∧ enabled .seq burst = true)
    ∧ (∃ t, takeTurn (.agent .seq) burst = .next t) ∧ ¬(Turn.agent .copy = .agent .seq ∧ enabled .seq burst = true) :=
  ⟨by decide, takeTurn_next _ _, by decide⟩
theorem witness_RegBurst : Invariant burst ∧ burst.par.backend = .reg ∧ burst.run = true ∧ burst.busy = true ∧ burst.phase = 0 :=
  ⟨burst_invariant, by decide⟩
theorem witness_ShiftStepMovesOneByte : pioBurst.par.backend = .pio ∧ 0 < pioBurst.shRem ∧ 8 ≤ pioBurst.panelSr.length := by decide
theorem witness_PioShiftEqualsRegShift : p0.par.backend = .pio ∧ rowBytes p0 = 8 := by decide
theorem witness_MuxsmDrivesPendingRow : (pioBurst.par.backend = .pio ∧ pioBurst.muxPend = some 1 ∧ 1 < pioBurst.nrows.toNat
    ∧ cfgValid pioBurst = true) ∧ (15 < p0.nrows.toNat ∧ cfgValid p0 = true ∧ p0.muxcnt = p0.nrows) := by decide
theorem witness_MuxTableSelectsOneRow : cfgValid r0 = true ∧ r0.muxLvl &&& ~~~(lineMask r0) = 0#32 ∧ 16 ≤ r0.nrows.toNat
    ∧ cfgValid pioBurst = true ∧ pioBurst.muxLvl &&& ~~~(lineMask pioBurst) = 0#32 := by decide
theorem witness_BackendsDriveSameLevels : cfgValid r0 = true ∧ r0.muxLvl &&& ~~~(lineMask r0) = 0#32 ∧ 16 ≤ r0.nrows.toNat := by
  decide
theorem witness_CopyStepCopiesOneByte : copying.copyBusy = true ∧ copying.copyIdx < 4096 ∧ Memory.wf copying.store = true := by decide
theorem witness_CopyEndsWithEqualSlots : copying.copyBusy = true ∧ copying.copyIdx < 4096 ∧ copying.db = true
    ∧ Memory.wf copying.store = true ∧ 0 < 4096 - copying.copyIdx := by decide
theorem witness_RunChangesOnlyByControl :
    (∃ t, takeTurn (.agent .host) (issuing tiny 0x2800400000003#50) = .next t
      ∧ (issuing tiny 0x2800400000003#50).run = false ∧ t.run = true)
    ∧ ∃ t, takeTurn (.agent .host) (issuing shown 0x2800400000002#50) = .next t
      ∧ (issuing shown 0x2800400000002#50).run = true ∧ t.run = false :=
  ⟨⟨_, rfl, by decide, by decide⟩, ⟨_, rfl, by decide, by decide⟩⟩
theorem witness_ConfigurationFixedWhileRunning : ∃ t, takeTurn (.agent .seq) burst = .next t ∧ burst.run = true ∧ t.run = true :=
  ⟨_, rfl, by decide, by decide⟩
theorem witness_FrontSlotChangesOnlyAtExchange :
    (∃ t, takeTurn (.agent .seq) { burst with phase := 2 } = .next t ∧ fslot t ≠ fslot { burst with phase := 2 })
    ∧ (∃ t, takeTurn (.agent .host) (issuing r0 0x2801000000001#50) = .next t ∧ fslot t ≠ fslot r0)
    ∧ ∃ t, takeTurn (.agent .host) (issuing { r0 with front := 1 } 0x2800400000000#50) = .next t ∧ fslot t ≠ fslot { r0 with front := 1 } :=
  ⟨⟨_, rfl, by decide⟩, ⟨_, rfl, by decide⟩, ⟨_, rfl, by decide⟩⟩
theorem witness_OnlyHostAndCopyWriteBuffers :
    (∃ t, takeTurn (.agent .copy) copying = .next t ∧ bufRead 1 4095 t ≠ bufRead 1 4095 copying)
    ∧ ∃ t, takeTurn (.agent .host) (issuing r0 0x09FFF0000005A#50) = .next t ∧ bufRead 1 4095 t ≠ bufRead 1 4095 r0 :=
  ⟨⟨_, rfl, by decide⟩, ⟨_, rfl, by decide⟩⟩
theorem witness_TraceOnlyGrows : Turn.agent .seq ≠ .reset ∧ ∃ t, takeTurn (.agent .seq) burst = .next t := ⟨by decide, takeTurn_next _ _⟩
theorem witness_ParametersNeverChange : (∃ t, takeTurn .reset burst = .next t) ∧ ∃ t, takeTurn (.agent .seq) burst = .next t :=
  ⟨takeTurn_next _ _, takeTurn_next _ _⟩
theorem witness_UnscannedBytesAreNeverShown : let s₂ := { burst with store := [(2, 7#8), (8191, 7#8)] }
    Invariant burst ∧ burst.run = true ∧ Memory.wf s₂.store = true ∧ AgreeOnFrame burst s₂
    ∧ (∃ t, takeTurn (.agent .seq) burst = .next t ∧ t.run = true) ∧ ∃ t, takeTurn (.agent .seq) s₂ = .next t :=
  ⟨burst_invariant, by decide, by decide, ⟨rfl, by decide⟩, ⟨_, rfl, by decide⟩, takeTurn_next _ _⟩
theorem witness_ResetValues : Sys2Proof.core.reset = Sys2Proof.core.reset ∧ ∃ t, takeTurn .reset burst = .next t :=
  ⟨rfl, takeTurn_next _ _⟩
theorem witness_StepKeepsSpecInvariant : SpecInvariant burst ∧ ∃ t, step burst = .next t := ⟨burst_spec, _, rfl⟩
theorem witness_StepKeepsRanges : Invariant burst ∧ ∃ t, step burst = .next t := ⟨burst_invariant, _, rfl⟩
theorem witness_StepKeepsCoherence : Invariant shown ∧ ∃ t, step shown = .next t := ⟨shown_invariant, _, rfl⟩
theorem witness_StepKeepsSelectedRow : (Invariant burst ∧ SelectsRow burst ∧ ∃ t, step burst = .next t)
    ∧ Invariant shown ∧ SelectsRow shown ∧ ∃ t, step shown = .next t :=
  ⟨⟨burst_invariant, burst_selects, _, rfl⟩, shown_invariant, shown_selects, _, rfl⟩
theorem witness_OnlySelectedRowIsLit : (r0.run = false ∧ burst.busy = true)
    ∧ Invariant shown ∧ SelectsRow shown ∧ shown.run = true ∧ lit shown 0 0 0 = true
    ∧ (0 < numPanels shown ∧ 7 < shown.pw.toNat ∧ 1 < shown.ph.toNat)
    ∧ cfgValid r0 = true ∧ 1 < numPanels r0 ∧ 31 < r0.pw.toNat ∧ 15 < r0.ph.toNat :=
  ⟨by decide, shown_invariant, shown_selects, by decide⟩
theorem witness_PixelMappingIsBijective : cfgValid r0 = true ∧ onDisplay r0 0 0 = true ∧ onDisplay r0 63 15 = true
    ∧ 127 < frameBytes r0 ∧ (7 : Nat) < 8 := by decide
theorem witness_SetpixWritesOneBit : Memory.wf drawn.store = true ∧ drawn.busy = false ∧ cfgValid drawn = true
    ∧ onDisplay drawn 63 15 = true ∧ onDisplay drawn 64 0 = false := by decide
theorem witness_EveryBurstEnds : Invariant burst ∧ NoReset roundRobin ∧ WeaklyFair roundRobin burst ∧ burst.busy = true :=
  ⟨burst_invariant, roundRobin_noReset, roundRobin_fair burst, by decide⟩
theorem witness_SwapArbiterBecomesIdle : Invariant burst ∧ NoReset roundRobin ∧ WeaklyFair roundRobin burst
    ∧ arbiterIdle burst = false := ⟨burst_invariant, roundRobin_noReset, roundRobin_fair burst, by decide⟩

end Sys2Proof.Tests
end

section
/-! SUPPORT. The statements on the schedule, the enabling table and the parameters (00_scope.md R9, R16, R17). -/

namespace Sys2Proof.Machine

/-! ### The schedule's next turn -/

/-- A step with a turn laid down takes it. -/
theorem step_of_turns_cons {s : State} {τ : Turn} {rest : List Turn} (h : s.turns = τ :: rest) :
    step s = takeTurn τ { s with turns := rest } := by
  simp only [step, stepTurn, drawTurn, h]

/-- A step with no turn laid down takes the oracle's. -/
theorem step_of_turns_nil {s : State} (h : s.turns = []) :
    step s = takeTurn (.agent (Config.pick s.turn)) { s with turn := s.turn + 1 } := by
  simp only [step, stepTurn, drawTurn, h]

/-- Settles O5: each source of the next turn by its own equation, and every turn ends in a next state. -/
theorem stepTakesScheduledTurn : Obligations.StepTakesScheduledTurn := by
  intro s
  exact ⟨fun _ _ => step_of_turns_cons, step_of_turns_nil, takeTurn_next _ _⟩

/-! ### The enabling table -/

/-- SEQ waits in phase 1 under PIO only, for the mux state machine and the shifter (43_refresh_sequencer.md R343). -/
theorem seqReady_iff (s : State) :
    seqReady s = true ↔ (s.phase = 1 → s.par.backend = .pio → s.muxPend = none ∧ s.shRem = 0) := by
  by_cases hp : s.phase = 1
  · cases hb : s.par.backend <;> simp [seqReady, hp, hb]
  · simp [seqReady, hp]

/-- The turn of an agent that is not enabled holds (00_scope.md R16). -/
theorem takeTurn_of_disabled {a : Agent} {s : State} (h : enabled a s = false) : takeTurn (.agent a) s = .next s := by
  simp [takeTurn, h]

/-- Settles O8: the table line by line. -/
theorem disabledAgentHolds : Obligations.DisabledAgentHolds := by
  intro s
  refine ⟨?timer, ?seq, ?copy, ?shift, ?muxsm, ?host, fun a => takeTurn_of_disabled⟩
  case timer => simp [enabled]
  case seq => simp only [enabled, Bool.and_eq_true, seqReady_iff, and_assoc]
  case copy => rfl
  case shift => simp [enabled]
  case muxsm => simp [enabled, Option.isSome_iff_ne_none]
  case host => simp [enabled]

/-! ### What stays outside the block: the parameters, the schedule and the host's program -/

/-- The parameters, the schedule and the transactions the host has still to issue. -/
def outside (s : State) : Params × List Turn × Nat × List Transaction := (s.par, s.turns, s.turn, s.hostq)

theorem outside_eq_iff {s t : State} :
    outside t = outside s ↔ t.par = s.par ∧ t.turns = s.turns ∧ t.turn = s.turn ∧ t.hostq = s.hostq := by
  simp [outside]

@[simp] theorem outside_refuseTransaction (wr : Bool) (s : State) : outside (refuseTransaction wr s) = outside s := by
  cases wr <;> rfl

@[simp] theorem outside_memWrite (a n : Nat) (v : Word) (s : State) : outside (memWrite a n v s) = outside s := by
  rw [memWrite_eq]; rfl

@[simp] theorem outside_applyMux (k : Nat) (s : State) : outside (applyMux k s) = outside s := by
  simp [outside]

@[simp] theorem outside_shiftRow (k : Fin 2) (base : Nat) (s : State) : outside (shiftRow k base s) = outside s := by
  simp [outside]

@[simp] theorem outside_start (s : State) : outside (start s) = outside s := by
  unfold start
  split
  · simp [outside]
  · rfl

@[simp] theorem outside_stop (s : State) : outside (stop s) = outside s := by
  rw [stop_eq]; rfl

@[simp] theorem outside_setDoubleBuffer (db : Bool) (s : State) : outside (setDoubleBuffer db s) = outside s := rfl

@[simp] theorem outside_requestSwap (req copy : Bool) (s : State) : outside (requestSwap req copy s) = outside s := by
  unfold requestSwap
  split_ifs <;> rfl

@[simp] theorem outside_writeControl (en db : Bool) (s : State) : outside (writeControl en db s) = outside s := by
  have h := writeControl_effect en db s
  generalize writeControl en db s = t at h ⊢
  cases h
  case refused => rfl
  case kept => rfl
  all_goals simp

/-- No instruction changes what is outside the block. -/
theorem outside_of_execEffect {s t : State} {i : Instr} (h : ExecEffect s i t) : outside t = outside s := by
  cases h
  case misaligned wr => exact outside_refuseTransaction wr s
  case ctrl d => exact outside_writeControl _ _ s
  case swap d => exact outside_requestSwap _ _ s
  case store n a d _ _ => exact outside_memWrite _ n d s
  all_goals rfl

@[simp] theorem outside_timerStep (s : State) : outside (timerStep s) = outside s := by
  unfold timerStep
  split_ifs <;> rfl

/-- No sub-phase of a burst changes what is outside the block. -/
@[simp] theorem outside_seqStep (s : State) : outside (seqStep s) = outside s := by
  obtain h | h | h | h := phase_cases s.phase
  · rw [seqStep_zero h]
    exact outside_applyMux _ _
  · rw [seqStep_one h, seqPhase1_eq]; rfl
  · rw [seqStep_two h, seqPhase2_eq]
    split_ifs <;> rfl
  · rw [seqStep_three h]
    exact outside_shiftRow _ _ s

@[simp] theorem outside_shiftStep (s : State) : outside (shiftStep s) = outside s := by
  rw [shiftStep_eq]; rfl

/-- A turn leaves what is outside the block as it is, but that the host's turn may take its next transaction. -/
theorem outside_of_turnEffect {s t : State} {τ : Turn} (h : TurnEffect s τ t) :
    outside t = outside s ∨ (τ = .agent .host ∧ outside t = outside { s with hostq := s.hostq.tail }) := by
  cases h
  case host w q i hb hq hd he =>
    refine .inr ⟨rfl, ?_⟩
    rw [outside_of_execEffect he, hq, List.tail_cons]
  case illegal w q e hb hq hd =>
    refine .inr ⟨rfl, ?_⟩
    rw [outside_refuseTransaction, hq, List.tail_cons]
  case timer => exact .inl (outside_timerStep s)
  case seq => exact .inl (outside_seqStep s)
  case shift => exact .inl (outside_shiftStep s)
  case muxsm i hp hi => rw [muxsmStep_eq hi]; exact .inl rfl
  all_goals exact .inl rfl

/-! ### The base address of the host window is read by no rule -/

/-- `s` on a platform that puts the host window at `b` (20_memory.md R112). -/
def withBase (b : Nat) (s : State) : State := { s with par := { s.par with dmdseBase := b } }

section
variable (b : Nat) (s : State)

theorem refuseTransaction_withBase (wr : Bool) :
    refuseTransaction wr (withBase b s) = withBase b (refuseTransaction wr s) := by
  cases wr <;> rfl

theorem bufWrite_withBase (k : Fin 2) (i : Nat) (v : Byte) :
    bufWrite k i v (withBase b s) = withBase b (bufWrite k i v s) := rfl

theorem memWrite_withBase (a n : Nat) (v : Word) : memWrite a n v (withBase b s) = withBase b (memWrite a n v s) := by
  have hb : bslot (withBase b s) = bslot s := rfl
  unfold memWrite
  rw [hb]
  exact List.foldl_hom (withBase b) fun u t => bufWrite_withBase b u _ _ _

theorem emit_withBase (e : Event) : emit e (withBase b s) = withBase b (emit e s) := by
  cases e <;> rfl

theorem emitAll_withBase (es : List Event) : emitAll es (withBase b s) = withBase b (emitAll es s) :=
  List.foldl_hom (withBase b) fun u e => emit_withBase b u e

/-- The row shift under each backend. -/
theorem shiftRow_withBase (k : Fin 2) (base : Nat) :
    shiftRow k base (withBase b s) = withBase b (shiftRow k base s) := by
  have hb : (withBase b s).par.backend = s.par.backend := rfl
  unfold shiftRow
  rw [hb]
  cases s.par.backend with
  | reg => exact emitAll_withBase b s _
  | pio => rfl

theorem shiftStep_withBase : shiftStep (withBase b s) = withBase b (shiftStep s) := by
  rw [shiftStep_eq, shiftStep_eq]; rfl

theorem muxsmStep_withBase : muxsmStep (withBase b s) = withBase b (muxsmStep s) := by
  have hm : (withBase b s).muxPend = s.muxPend := rfl
  unfold muxsmStep
  rw [hm]
  cases s.muxPend <;> rfl

theorem requestSwap_withBase (req copy : Bool) :
    requestSwap req copy (withBase b s) = withBase b (requestSwap req copy s) := by
  simp only [requestSwap, apply_ite (withBase b)]; rfl

theorem fitPanel_withBase : fitPanel (withBase b s) = withBase b (fitPanel s) := by
  simp only [fitPanel, apply_ite (withBase b)]; rfl

theorem preloadAndRun_withBase : preloadAndRun (withBase b s) = withBase b (preloadAndRun s) :=
  congrArg (fun u : State => { u with run := true }) (shiftRow_withBase b s (fslot s) 0)

theorem acceptedStart_withBase : acceptedStart (withBase b s) = withBase b (acceptedStart s) := by
  have hcleared : driveMux 0#32 (clearSequencer (loadTiming (generateMuxTable (withBase b s))))
      = withBase b (driveMux 0#32 (clearSequencer (loadTiming (generateMuxTable s)))) := rfl
  unfold acceptedStart
  rw [hcleared, fitPanel_withBase, preloadAndRun_withBase]

theorem start_withBase : start (withBase b s) = withBase b (start s) := by
  have hc : cfgValid (withBase b s) = cfgValid s := rfl
  simp only [start, hc, apply_ite (withBase b), acceptedStart_withBase]; rfl

theorem stop_withBase : stop (withBase b s) = withBase b (stop s) := by
  rw [stop_eq, stop_eq]; rfl

theorem controlStopped_withBase (en db : Bool) :
    controlStopped en db (withBase b s) = (controlStopped en db s).map (withBase b) := by
  have hdb : (withBase b s).db = s.db := rfl
  have hc : (withBase b s).copyBusy = s.copyBusy := rfl
  have hset : setDoubleBuffer db (withBase b s) = withBase b (setDoubleBuffer db s) := rfl
  simp only [controlStopped, hdb, hc, hset, start_withBase]
  split_ifs <;> rfl

theorem controlEffect_withBase (en db : Bool) :
    controlEffect en db (withBase b s) = (controlEffect en db s).map (withBase b) := by
  have hdb : (withBase b s).db = s.db := rfl
  have hr : (withBase b s).run = s.run := rfl
  simp only [controlEffect, hdb, hr, stop_withBase, controlStopped_withBase]
  split_ifs <;> rfl

theorem writeControl_withBase (en db : Bool) :
    writeControl en db (withBase b s) = withBase b (writeControl en db s) := by
  unfold writeControl
  rw [controlEffect_withBase]
  cases controlEffect en db s <;> rfl

theorem configure_withBase {f : State → State} (hf : ∀ u, f (withBase b u) = withBase b (f u)) :
    configure f (withBase b s) = withBase b (configure f s) := by
  have hr : (withBase b s).run = s.run := rfl
  simp only [configure, hr, hf, apply_ite (withBase b)]; rfl

theorem windowRead_withBase (base n : Nat) (al : Bool) (i : BitVec 12) :
    windowRead base n al i (withBase b s) = withBase b (windowRead base n al i s) := by
  cases al <;> rfl

theorem windowWrite_withBase (n : Nat) (al : Bool) (i : BitVec 12) (d : Word) :
    windowWrite n al i d (withBase b s) = withBase b (windowWrite n al i d s) := by
  cases al with
  | false => rfl
  | true => exact congrArg acknowledge (memWrite_withBase b s _ n d)

theorem timerStep_withBase : timerStep (withBase b s) = withBase b (timerStep s) := by
  have ht : tickDue (withBase b s) = tickDue s := rfl
  have hr : (withBase b s).reloadPending = s.reloadPending := rfl
  simp only [timerStep, ht, hr]
  split_ifs <;> rfl

theorem seqPhase0_withBase : seqPhase0 (withBase b s) = withBase b (seqPhase0 s) := by
  cases hb : s.par.backend with
  | reg => rw [seqPhase0_reg hb, seqPhase0_reg (s := withBase b s) hb]; rfl
  | pio => rw [seqPhase0_pio hb, seqPhase0_pio (s := withBase b s) hb]; rfl

theorem seqPhase2_withBase : seqPhase2 (withBase b s) = withBase b (seqPhase2 s) := by
  simp only [seqPhase2_eq, apply_ite (withBase b)]; rfl

theorem seqPhase3_withBase : seqPhase3 (withBase b s) = withBase b (seqPhase3 s) :=
  congrArg (fun u : State => leaveBurst { u with nm := s.row + 1, row := nextRow s })
    (shiftRow_withBase b s (fslot s) (nextRow s * rowBytes s))

theorem seqStep_withBase : seqStep (withBase b s) = withBase b (seqStep s) := by
  obtain h | h | h | h := phase_cases s.phase
  · rw [seqStep_zero h, seqStep_zero (s := withBase b s) h, seqPhase0_withBase]
  · rw [seqStep_one h, seqStep_one (s := withBase b s) h, seqPhase1_eq, seqPhase1_eq]; rfl
  · rw [seqStep_two h, seqStep_two (s := withBase b s) h, seqPhase2_withBase]
  · rw [seqStep_three h, seqStep_three (s := withBase b s) h, seqPhase3_withBase]

theorem enabled_withBase (a : Agent) : enabled a (withBase b s) = enabled a s := by
  cases a <;> rfl

end

/-- An outcome from the state it ends in. -/
theorem next_withBase {b : Nat} {t u : State} (h : u = withBase b t) :
    (.next u : Host.Outcome State Fault Refusal) = .next (withBase b t) := by rw [h]

/-- The outcome of a write from the state its effect leaves. -/
theorem next_acknowledge_withBase {b : Nat} {t u : State} (h : u = withBase b t) :
    (.next (acknowledge u) : Host.Outcome State Fault Refusal) = .next (withBase b (acknowledge t)) := by rw [h]; rfl

/-- Every instruction: a read answers from the other fields, a write goes through the operations above. -/
theorem exec_withBase (b : Nat) {i : Instr} {s t : State} (h : exec i s = .next t) :
    exec i (withBase b s) = .next (withBase b t) := by
  cases i <;> obtain rfl := Host.Outcome.next.inj h
  case wrCtrl d => exact next_acknowledge_withBase (writeControl_withBase b s _ _)
  case wrSwap d => exact next_acknowledge_withBase (requestSwap_withBase b s _ _)
  case wrGeom0 d => exact next_acknowledge_withBase (configure_withBase b s fun _ => rfl)
  case wrGeom1 d => exact next_acknowledge_withBase (configure_withBase b s fun _ => rfl)
  case wrPol d => exact next_acknowledge_withBase (configure_withBase b s fun _ => rfl)
  case rd8Back a => exact next_withBase (windowRead_withBase b s _ _ _ a)
  case rd16Back a => exact next_withBase (windowRead_withBase b s _ _ _ a)
  case rd32Back a => exact next_withBase (windowRead_withBase b s _ _ _ a)
  case rd8Front a => exact next_withBase (windowRead_withBase b s _ _ _ a)
  case rd16Front a => exact next_withBase (windowRead_withBase b s _ _ _ a)
  case rd32Front a => exact next_withBase (windowRead_withBase b s _ _ _ a)
  case wr8Back a d => exact next_withBase (windowWrite_withBase b s _ _ a d)
  case wr16Back a d => exact next_withBase (windowWrite_withBase b s _ _ a d)
  case wr32Back a d => exact next_withBase (windowWrite_withBase b s _ _ a d)
  all_goals rfl

theorem hostStep_withBase (b : Nat) {s t : State} (h : hostStep s = .next t) :
    hostStep (withBase b s) = .next (withBase b t) := by
  have hq : (withBase b s).hostq = s.hostq := rfl
  unfold hostStep at h ⊢
  rw [hq]
  cases hs : s.hostq with
  | nil => rw [hs] at h; obtain rfl := Host.Outcome.next.inj h; rfl
  | cons w q =>
    simp only [hs] at h ⊢
    cases hd : decode w with
    | ok i => rw [hd] at h; exact exec_withBase b h
    | error e =>
      rw [hd] at h
      obtain rfl := Host.Outcome.next.inj h
      exact next_withBase (refuseTransaction_withBase b { s with hostq := q } _)

theorem agentStep_withBase (b : Nat) {a : Agent} {s t : State} (h : agentStep a s = .next t) :
    agentStep a (withBase b s) = .next (withBase b t) := by
  cases a
  case host => exact hostStep_withBase b h
  all_goals obtain rfl := Host.Outcome.next.inj h
  case timer => exact next_withBase (timerStep_withBase b s)
  case seq => exact next_withBase (seqStep_withBase b s)
  case copy => rfl
  case shift => exact next_withBase (shiftStep_withBase b s)
  case muxsm => exact next_withBase (muxsmStep_withBase b s)

/-- Two machines that differ in the base address only still do after any turn. -/
theorem takeTurn_withBase (b : Nat) {τ : Turn} {s t : State} (h : takeTurn τ s = .next t) :
    takeTurn τ (withBase b s) = .next (withBase b t) := by
  cases τ with
  | reset => obtain rfl := Host.Outcome.next.inj h; rfl
  | agent a =>
    simp only [takeTurn, enabled_withBase] at h ⊢
    split_ifs at h ⊢
    · exact agentStep_withBase b h
    · obtain rfl := Host.Outcome.next.inj h; rfl

/-- Settles O47: the frame by what a turn can do, and the independence of the base address by commuting every operation
with the change of it. -/
theorem parametersNeverChange : Obligations.ParametersNeverChange := by
  intro τ s t h
  have hbase := fun b => takeTurn_withBase b h
  obtain ho | ⟨hτ, ho⟩ := outside_of_turnEffect (takeTurn_effect h)
  all_goals obtain ⟨hpar, hturns, hturn, hq⟩ := outside_eq_iff.mp ho
  · exact ⟨hpar, hturns, hturn, .inl hq, hbase⟩
  · exact ⟨hpar, hturns, hturn, .inr ⟨hτ, hq⟩, hbase⟩

end Sys2Proof.Machine
end

section
/-! SUPPORT. The invariants of 10_state.md R78: the reset state has them and every step keeps them. A clause whose
components an operation leaves alone holds of the new state by definition, so `{ h with … }` names exactly the clauses that
need an argument. -/

namespace Sys2Proof.Machine

/-! ### A step is a turn, reset is the reset input -/

/-- A step is a turn, taken with the schedule moved on. -/
theorem step_takesTurn {s t : State} (h : step s = .next t) :
    ∃ τ turns turn, takeTurn τ { s with turns := turns, turn := turn } = .next t := by
  cases hs : s.turns with
  | nil => exact ⟨_, s.turns, s.turn + 1, step_of_turns_nil hs ▸ h⟩
  | cons τ rest => exact ⟨τ, rest, s.turn, step_of_turns_cons hs ▸ h⟩

/-- Power-on leaves what the reset input does. -/
theorem reset_eq_resetInput : State.reset = resetInput { State.reset with draws := 0 } := rfl

/-- A flag is not both 1 and 0. -/
theorem flag_absurd {P : Prop} {b : Bool} (h1 : b = true) (h0 : b = false) : P := nomatch h1.symm.trans h0

/-! ### The invariants of R78 -/

/-- R78 after the reset input, from any state. -/
theorem resetInput_specInvariant (s : State) : SpecInvariant (resetInput s) where
  phaseAtRest _ := rfl
  running := nofun
  stopped _ := ⟨rfl, rfl, rfl, rfl, rfl, rfl⟩
  swapPending := nofun
  copying := nofun
  sentinel := nofun

/-- A valid configuration has a row. -/
theorem nrows_pos {s : State} (h : cfgValid s = true) : 0 < s.nrows.toNat := by
  obtain ⟨-, -, -, -, hn, -⟩ := (cfgValid_iff s).mp h
  exact hn

/-- The generated table's lookahead sentinel: entry `NROWS` is entry 0 (41_mux_table.md R256). -/
theorem generateMuxTable_sentinel {s : State} (h : cfgValid s = true) :
    muxEntry (generateMuxTable s).muxset s.nrows.toNat = muxEntry (generateMuxTable s).muxset 0
      ∧ muxEntry (generateMuxTable s).muxclr s.nrows.toNat = muxEntry (generateMuxTable s).muxclr 0 := by
  obtain ⟨-, -, -, -, hpos, hmax, -⟩ := (cfgValid_iff s).mp h
  have hentry : tableEntry s s.nrows.toNat = tableEntry s 0 := by
    simp only [tableEntry, Nat.lt_irrefl, if_false, if_true, if_pos (show 0 < s.nrows.toNat from hpos)]
  obtain ⟨hset, hclr⟩ := generateMuxTable_entry s hmax
  obtain ⟨hset0, hclr0⟩ := generateMuxTable_entry s (Nat.zero_le 32)
  rw [hset, hclr, hset0, hclr0, hentry]
  exact ⟨rfl, rfl⟩

/-- A stop stops. -/
@[simp] theorem stop_run (s : State) : (stop s).run = false := by rw [stop_eq]

section
variable {s : State} (h : SpecInvariant s)
include h

theorem SpecInvariant.swapReq_of_stopped (hr : s.run = false) : s.swapReq = false :=
  have ⟨_, hsw, _⟩ := h.stopped hr
  hsw

theorem SpecInvariant.refuseTransaction (wr : Bool) : SpecInvariant (refuseTransaction wr s) := by
  cases wr <;> exact { h with }

theorem SpecInvariant.memWrite (a n : Nat) (v : Word) : SpecInvariant (memWrite a n v s) := by
  rw [memWrite_eq]
  exact { h with }

/-- A start runs from row 0 with a table whose entry `NROWS` is entry 0 (43_refresh_sequencer.md R323, 41_mux_table.md
R256). -/
theorem SpecInvariant.acceptedStart (hr : s.run = false) (hc : cfgValid s = true) :
    SpecInvariant (acceptedStart s) where
  phaseAtRest _ := by simp
  running _ := by
    have hv := (cfgValid_congr (s := s) (t := Machine.acceptedStart s) (by simp [SameGeometry])).trans hc
    have hn := nrows_pos hc
    simpa using ⟨hv, hn⟩
  stopped := by simp
  swapPending := by simp [h.swapReq_of_stopped hr]
  copying := by simpa using h.copying
  sentinel _ := by simpa using generateMuxTable_sentinel hc

theorem SpecInvariant.start (hr : s.run = false) : SpecInvariant (start s) := by
  unfold Machine.start
  split
  · next hc => exact h.acceptedStart hr hc
  · exact { h with }

/-- A stop between bursts (43_refresh_sequencer.md R326). -/
theorem SpecInvariant.stop (hb : s.busy = false) : SpecInvariant (stop s) := by
  rw [stop_eq]
  refine { h with running := nofun, sentinel := nofun, swapPending := nofun, stopped := ?stopped, copying := ?copying }
  case stopped => exact fun _ => ⟨hb, rfl, rfl, rfl, rfl, rfl⟩
  case copying =>
    intro hcb
    simp only [Bool.or_eq_true, Bool.and_eq_true] at hcb
    obtain hcb | ⟨hsw, -⟩ := hcb
    · exact ⟨(h.copying hcb).1, rfl⟩
    · exact ⟨(h.swapPending hsw).1, rfl⟩

/-- While stopped and with no copy running, `DB` may change (40_host_registers.md R203). -/
theorem SpecInvariant.setDoubleBuffer (hr : s.run = false) (hc : s.copyBusy = false) (db : Bool) :
    SpecInvariant (setDoubleBuffer db s) :=
  have hsw := h.swapReq_of_stopped hr
  { h with
    swapPending := (flag_absurd · hsw)
    copying := (flag_absurd · hc) }

/-- Double-buffered, the slots may change places at any time (44_swap_arbiter.md R383). -/
theorem SpecInvariant.exchange (hdb : s.db = true) : SpecInvariant (exchange s) :=
  { h with
    stopped := fun hr =>
      have ⟨hb, _, hrest⟩ := h.stopped hr
      ⟨hb, rfl, hrest⟩
    swapPending := nofun
    copying := fun _ => ⟨hdb, rfl⟩ }

theorem SpecInvariant.requestSwap (req copy : Bool) : SpecInvariant (requestSwap req copy s) := by
  unfold Machine.requestSwap
  split
  · exact h
  · next hn =>
    simp only [Bool.or_eq_true, Bool.not_eq_true', not_or, Bool.not_eq_true, Bool.not_eq_false] at hn
    obtain ⟨⟨⟨-, hdb⟩, -⟩, hcb⟩ := hn
    split
    · next hr =>
      exact { h with
        stopped := flag_absurd hr
        swapPending := fun _ => ⟨hdb, hr, hcb⟩
        copying := (flag_absurd · hcb) }
    · exact SpecInvariant.exchange (s := { s with copyReq := copy }) { h with } hdb

/-- A `CTRL` write between bursts. -/
theorem SpecInvariant.writeControl (hb : s.busy = false) (en db : Bool) : SpecInvariant (writeControl en db s) := by
  have he := writeControl_effect en db s
  generalize Machine.writeControl en db s = t at he ⊢
  cases he with
  | refused => exact { h with }
  | kept => exact h
  | stopped => exact h.stop hb
  | stoppedDb _ _ _ hc => exact (h.stop hb).setDoubleBuffer (stop_run s) hc db
  | storedDb hr _ _ hc => exact h.setDoubleBuffer hr hc db
  | started hr => exact h.start hr
  | startedDb hr _ _ hc => exact (h.setDoubleBuffer hr hc db).start hr

/-- Every instruction performed between bursts keeps R78. -/
theorem SpecInvariant.execEffect (hb : s.busy = false) {i : Instr} {t : State} (he : ExecEffect s i t) :
    SpecInvariant t := by
  cases he with
  | misaligned => exact h.refuseTransaction _
  | ctrl d => exact { h.writeControl hb _ _ with }
  | swap d => exact { h.requestSwap _ _ with }
  | store _ n a d => exact { h.memWrite _ n d with }
  | geom0 d hr => exact { h with running := (flag_absurd · hr) }
  | geom1 d hr => exact { h with running := (flag_absurd · hr), sentinel := (flag_absurd · hr) }
  | _ => exact { h with }

/-- The tick while running begins a burst (60_exceptions.md R483). -/
theorem SpecInvariant.enterBurst (hr : s.run = true) : SpecInvariant (enterBurst s) :=
  { h with
    phaseAtRest := nofun
    running := fun _ =>
      have ⟨hv, hrow, hnm, _⟩ := h.running hr
      ⟨hv, hrow, hnm, nofun⟩
    stopped := flag_absurd hr }

theorem SpecInvariant.timerStep (hr : s.run = true) : SpecInvariant (timerStep s) := by
  unfold Machine.timerStep
  split_ifs
  · exact SpecInvariant.enterBurst (s := applyReload s) { h with } hr
  · exact h.enterBurst hr
  · exact { h with stopped := flag_absurd hr }

/-- Phase 0 leaves the burst in progress and the row where it is, under either backend. -/
theorem SpecInvariant.seqPhase0 (hr : s.run = true) (hb : s.busy = true) : SpecInvariant (seqPhase0 s) := by
  cases hp : s.par.backend with
  | reg => rw [seqPhase0_reg hp]; exact { h with phaseAtRest := flag_absurd hb, stopped := flag_absurd hr }
  | pio => rw [seqPhase0_pio hp]; exact { h with phaseAtRest := flag_absurd hb, stopped := flag_absurd hr }

theorem SpecInvariant.seqPhase1 (hr : s.run = true) (hb : s.busy = true) : SpecInvariant (seqPhase1 s) := by
  rw [seqPhase1_eq]
  exact { h with phaseAtRest := flag_absurd hb, stopped := flag_absurd hr }

/-- An exchange at the frame boundary needs the block double-buffered, which a pending swap implies (R78(d)). -/
theorem SpecInvariant.seqPhase2 (hb : s.busy = true) : SpecInvariant (seqPhase2 s) := by
  unfold Machine.seqPhase2
  dsimp only
  split_ifs
  · next hsw =>
    have hdb : s.db = true := (h.swapPending hsw).1
    have hx := SpecInvariant.exchange (s := { s with framecnt := s.framecnt + 1#32 }) { h with } hdb
    exact { hx with phaseAtRest := flag_absurd hb }
  · exact { h with phaseAtRest := flag_absurd hb }
  · exact { h with phaseAtRest := flag_absurd hb }

/-- Phase 3 leaves the lookahead index naming the next burst's row, modulo `NROWS` (10_state.md R50,
43_refresh_sequencer.md R348). -/
theorem SpecInvariant.seqPhase3 (hr : s.run = true) : SpecInvariant (seqPhase3 s) := by
  obtain ⟨hv, hrow, -, -⟩ := h.running hr
  have hadvance : cfgValid s = true ∧ nextRow s < s.nrows.toNat ∧ s.row + 1 ≤ s.nrows.toNat
      ∧ (false = false → (s.row + 1) % s.nrows.toNat = nextRow s) :=
    ⟨hv, Nat.mod_lt _ (nrows_pos hv), hrow, fun _ => rfl⟩
  cases hp : s.par.backend with
  | reg =>
    rw [seqPhase3_reg hp]
    exact { h with phaseAtRest := fun _ => rfl, running := fun _ => hadvance, stopped := flag_absurd hr }
  | pio =>
    rw [seqPhase3_pio hp]
    exact { h with phaseAtRest := fun _ => rfl, running := fun _ => hadvance, stopped := flag_absurd hr }

theorem SpecInvariant.seqStep (hr : s.run = true) (hb : s.busy = true) : SpecInvariant (seqStep s) := by
  obtain hp | hp | hp | hp := phase_cases s.phase
  · rw [seqStep_zero hp]; exact h.seqPhase0 hr hb
  · rw [seqStep_one hp]; exact h.seqPhase1 hr hb
  · rw [seqStep_two hp]; exact h.seqPhase2 hb
  · rw [seqStep_three hp]; exact h.seqPhase3 hr

/-- A copy step belongs to a running copy, during which no swap is pending (44_swap_arbiter.md R388). -/
theorem SpecInvariant.copyStep (hc : s.copyBusy = true) : SpecInvariant (copyStep s) := by
  obtain ⟨hdb, hsw⟩ := h.copying hc
  rw [copyStep_eq]
  exact { h with
    swapPending := (flag_absurd · hsw)
    copying := fun _ => ⟨hdb, hsw⟩ }

/-- Bytes are left to shift only while running (45_backends.md R435). -/
theorem SpecInvariant.shiftStep (hrem : 0 < s.shRem) : SpecInvariant (shiftStep s) := by
  rw [shiftStep_eq]
  refine { h with stopped := fun hr => ?_ }
  obtain ⟨-, -, -, -, hzero, -⟩ := h.stopped hr
  exact absurd hzero hrem.ne'

/-- A MUXSM step leaves no row pending (45_backends.md R440). -/
theorem SpecInvariant.muxsmStep {i : Nat} (hi : s.muxPend = some i) : SpecInvariant (muxsmStep s) := by
  rw [muxsmStep_eq hi]
  refine { h with stopped := fun hr => ?_ }
  obtain ⟨hb, hsw, hcnt, harm, hrem, -⟩ := h.stopped hr
  exact ⟨hb, hsw, hcnt, harm, hrem, rfl⟩

/-- Every turn keeps R78. -/
theorem SpecInvariant.turnEffect {τ : Turn} {t : State} (he : TurnEffect s τ t) : SpecInvariant t := by
  cases he with
  | hold => exact h
  | reset => exact resetInput_specInvariant s
  | timer hr => exact h.timerStep hr
  | seq hr hb => exact h.seqStep hr hb
  | copy hc => exact h.copyStep hc
  | shift _ hrem => exact h.shiftStep hrem
  | muxsm _ i hi => exact h.muxsmStep hi
  | host w q i t hb _ _ he => exact SpecInvariant.execEffect (s := { s with hostq := q }) { h with } hb he
  | illegal w q => exact SpecInvariant.refuseTransaction (s := { s with hostq := q }) { h with } _

end

/-- Settles O51: reset has the invariants of R78, and a step is a turn, every effect of which keeps them. -/
theorem stepKeepsSpecInvariant : Obligations.StepKeepsSpecInvariant := by
  refine ⟨reset_eq_resetInput ▸ resetInput_specInvariant _, fun s t h hstep => ?_⟩
  obtain ⟨τ, turns, turn, ht⟩ := step_takesTurn hstep
  exact SpecInvariant.turnEffect (s := { s with turns := turns, turn := turn }) { h with } (takeTurn_effect ht)

end Sys2Proof.Machine
end

section
/-! SUPPORT. The ranges of the state's components (10_state.md): every step from a state with the invariants keeps them. -/

namespace Sys2Proof.Machine

/-! ### The values an update computes -/

/-- The computed divider and period lie in the ranges of 10_state.md R38 (45_backends.md R420). -/
theorem computeTiming_inRange (f w us : Nat) {divMax : Nat} (hd : 1 ≤ divMax) :
    (1 ≤ (computeTiming f w divMax us).div ∧ (computeTiming f w divMax us).div ≤ divMax)
      ∧ 1 ≤ (computeTiming f w divMax us).period ∧ (computeTiming f w divMax us).period ≤ 2 ^ w :=
  ⟨⟨le_min hd (le_max_left _ _), min_le_left _ _⟩, le_min Nat.one_le_two_pow (le_max_left _ _), min_le_left _ _⟩

theorem loadTiming_inRange (s : State) :
    (1 ≤ (loadTiming s).div ∧ (loadTiming s).div ≤ s.par.divMax)
      ∧ 1 ≤ (loadTiming s).period ∧ (loadTiming s).period ≤ 2 ^ s.par.timerWidth :=
  computeTiming_inRange _ _ _ (Nat.le_add_left 1 _)

/-- The light window is no longer than the row period (43_refresh_sequencer.md R341). -/
theorem lightCounts_le_period (s : State) : lightCounts s ≤ s.period := by
  have hb : s.bright.toNat ≤ 255 := Nat.le_of_lt_succ s.bright.isLt
  calc lightCounts s ≤ s.period * 255 / 255 := Nat.div_le_div_right (Nat.mul_le_mul_left _ hb)
    _ = s.period := Nat.mul_div_cancel _ (by decide)

/-- Under PIO the set half of the generated table holds row numbers (41_mux_table.md R257). -/
theorem tableEntry_pio_lt {s : State} (hp : s.par.backend = .pio) (hn : s.nrows.toNat ≤ 32) (i : Nat) :
    (tableEntry s i).1.toNat < 32 := by
  unfold tableEntry
  split_ifs with hi
  · have hmod : i % 2 ^ 32 ≤ i := Nat.mod_le _ _
    simp only [rowEntry, hp, BitVec.toNat_ofNat]
    omega
  · simp [rowEntry, hp]
  · simp

/-! ### Every operation keeps the ranges -/

theorem resetInput_inRange (s : State) : InRange (resetInput s) where
  div := Nat.zero_le _
  period := Nat.zero_le _
  started := nofun
  onCnt := Nat.zero_le _
  row := Nat.succ_pos 31
  nm := Nat.zero_le _
  counting := nofun
  copyIdx := Nat.zero_le _
  copyLeft := nofun
  shift := Nat.zero_le _
  muxPend := nofun
  regIdle _ := ⟨rfl, rfl, rfl, rfl⟩
  pulses := ⟨rfl, rfl⟩
  store := rfl

section
variable {s : State} (h : InRange s)
include h

theorem InRange.emit (e : Event) : InRange (emit e s) := by
  obtain ⟨hclk, hlat⟩ := h.pulses
  cases e with
  | bit d => exact { h with pulses := ⟨rfl, hlat⟩ }
  | latch => exact { h with pulses := ⟨hclk, rfl⟩ }
  | _ => exact { h with }

theorem InRange.emitAll (es : List Event) : InRange (emitAll es s) := by
  induction es generalizing s with
  | nil => exact h
  | cons e es ih => exact ih (h.emit e)

theorem InRange.refuseTransaction (wr : Bool) : InRange (refuseTransaction wr s) := by
  cases wr <;> exact { h with }

theorem InRange.memWrite (a n : Nat) (v : Word) : InRange (memWrite a n v s) := by
  have hwf := memWrite_wf h.store a n v
  rw [memWrite_eq]
  exact { h with store := hwf }

/-- A shift of a row that lies in the slot (45_backends.md R432, R434). -/
theorem InRange.shiftRow (k : Fin 2) (base : Nat) (hfit : base + rowBytes s ≤ 4096) : InRange (shiftRow k base s) := by
  unfold Machine.shiftRow
  split
  · exact h.emitAll _
  · next hp => exact { h with shift := hfit, regIdle := fun hr => absurd (hp.symm.trans hr) nofun }

/-- Where an exchange leaves the copy engine: at byte 0 if it starts a copy, else where it was (44_swap_arbiter.md R385). -/
theorem InRange.copyRestarted (c : Bool) :
    (if c then 0 else s.copyIdx) ≤ 4096 ∧ ((s.copyBusy || c) = true → (if c then 0 else s.copyIdx) < 4096) := by
  cases c
  · simpa using And.intro h.copyIdx h.copyLeft
  · simp

theorem InRange.exchange : InRange (exchange s) :=
  have ⟨hidx, hleft⟩ := h.copyRestarted s.copyReq
  { h with copyIdx := hidx, copyLeft := hleft }

theorem InRange.requestSwap (req copy : Bool) : InRange (requestSwap req copy s) := by
  unfold Machine.requestSwap
  split_ifs
  · exact h
  · exact { h with }
  · exact InRange.exchange (s := { s with copyReq := copy }) { h with }

theorem InRange.driveMux (v : Word) : InRange (driveMux v s) := { h with }

/-- The mux table has no range of its own: its entries are words (10_state.md R44). -/
theorem InRange.withTable (set clr : MuxTab) : InRange { s with muxset := set, muxclr := clr } := { h with }

theorem InRange.generateMuxTable : InRange (generateMuxTable s) := h.withTable _ _

theorem InRange.loadTiming (hr : s.run = false) : InRange (loadTiming s) :=
  have ⟨⟨_, hdiv⟩, _, hper⟩ := loadTiming_inRange s
  { h with div := hdiv, period := hper, started := (flag_absurd · hr), counting := (flag_absurd · hr) }

theorem InRange.clearSequencer (hr : s.run = false) : InRange (clearSequencer s) :=
  { h with
    counting := (flag_absurd · hr)
    onCnt := Nat.zero_le _
    row := Nat.succ_pos 31
    nm := Nat.zero_le _
    muxPend := nofun
    regIdle := fun hp =>
      have ⟨hrem, hsrc, hslot, _⟩ := h.regIdle hp
      ⟨hrem, hsrc, hslot, rfl⟩ }

theorem InRange.fitPanel : InRange (fitPanel s) := by
  unfold Machine.fitPanel
  split
  · exact h
  · exact { h with }

/-- The block runs once it has a divider and a period (10_state.md R38) and its first row lies in the slot. -/
theorem InRange.preloadAndRun (hfit : rowBytes s ≤ 4096) (hdiv : 1 ≤ s.div) (hper : 1 ≤ s.period) (hcnt : s.cnt = 0) :
    InRange (preloadAndRun s) :=
  { h.shiftRow (fslot s) 0 ((Nat.zero_add _).trans_le hfit) with
    started := fun _ => by simpa using ⟨hdiv, hper⟩
    counting := fun _ => by rwa [preloadAndRun_cnt, preloadAndRun_period, hcnt] }

/-- A start loads the timing, clears the sequencer and shifts a row that lies in the slot (43_refresh_sequencer.md R323). -/
theorem InRange.acceptedStart (hr : s.run = false) (hc : cfgValid s = true) : InRange (acceptedStart s) := by
  obtain ⟨⟨hdiv, -⟩, hper, -⟩ := loadTiming_inRange s
  obtain ⟨-, -, -, -, hpos, -, -, -, hframe, -⟩ := (cfgValid_iff s).mp hc
  have hrow : rowBytes s ≤ 4096 := by
    have hfirst := rows_fit 0 hpos
    omega
  have hcleared : InRange (Machine.clearSequencer (Machine.loadTiming (Machine.generateMuxTable s))) :=
    (h.generateMuxTable.loadTiming (by simpa using hr)).clearSequencer (by simpa using hr)
  unfold Machine.acceptedStart
  refine (hcleared.driveMux 0#32).fitPanel.preloadAndRun ?_ ?_ ?_ ?_
  · rwa [rowBytes_congr (s := s) (by simp [SameGeometry])]
  · simpa using hdiv
  · simpa using hper
  · simp

theorem InRange.start (hr : s.run = false) : InRange (start s) := by
  unfold Machine.start
  split
  · next hc => exact h.acceptedStart hr hc
  · exact { h with }

/-- A stop leaves no byte to shift and no row to drive (43_refresh_sequencer.md R326). -/
theorem InRange.stop : InRange (stop s) := by
  obtain ⟨hidx, hleft⟩ := h.copyRestarted (s.swapReq && s.copyReq)
  rw [stop_eq]
  exact { h with
    started := nofun
    counting := nofun
    copyIdx := hidx
    copyLeft := hleft
    shift := (Nat.le_add_right _ _).trans h.shift
    muxPend := nofun
    regIdle := fun hp =>
      have ⟨_, hsrc, hslot, _⟩ := h.regIdle hp
      ⟨rfl, hsrc, hslot, rfl⟩ }

theorem InRange.setDoubleBuffer (db : Bool) : InRange (setDoubleBuffer db s) := { h with }

theorem InRange.writeControl (en db : Bool) : InRange (writeControl en db s) := by
  have he := writeControl_effect en db s
  generalize Machine.writeControl en db s = t at he ⊢
  cases he with
  | refused => exact { h with }
  | kept => exact h
  | stopped => exact h.stop
  | stoppedDb => exact h.stop.setDoubleBuffer db
  | storedDb => exact h.setDoubleBuffer db
  | started hr => exact h.start hr
  | startedDb hr => exact (h.setDoubleBuffer db).start hr

/-- Every instruction keeps the ranges. -/
theorem InRange.execEffect {i : Instr} {t : State} (he : ExecEffect s i t) : InRange t := by
  cases he with
  | misaligned => exact h.refuseTransaction _
  | ctrl d => exact { h.writeControl _ _ with }
  | swap d => exact { h.requestSwap _ _ with }
  | store _ n a d => exact { h.memWrite _ n d with }
  | _ => exact { h with }

/-- A count stays below the period, and at the tick it starts again under the period then in force
(43_refresh_sequencer.md R330, R331). -/
theorem InRange.timerStep (hr : s.run = true) : InRange (timerStep s) := by
  unfold Machine.timerStep
  split_ifs with htick hp
  · obtain ⟨⟨hdpos, hdiv⟩, hppos, hper⟩ := loadTiming_inRange s
    exact { h with
      div := hdiv
      period := hper
      started := fun _ => ⟨hdpos, hppos⟩
      counting := fun _ => hppos }
  · exact { h with counting := fun _ => Nat.zero_lt_of_lt (h.counting hr) }
  · have hcount : s.cnt + 1 < s.period := by simpa [tickDue] using htick
    exact { h with counting := fun _ => hcount }

/-- A running copy has a byte left; its last byte ends it (44_swap_arbiter.md R388). -/
theorem InRange.copyStep (hc : s.copyBusy = true) : InRange (copyStep s) := by
  have hidx : s.copyIdx < 4096 := h.copyLeft hc
  rw [copyStep_eq]
  refine { h with copyIdx := hidx, copyLeft := ?left, store := bufWrite_wf h.store _ _ _ }
  case left =>
    intro hb
    simp only [Bool.not_eq_true', beq_eq_false_iff_ne] at hb
    show s.copyIdx + 1 < 4096
    omega

/-- A byte shifted moves from the bytes left to the bytes done (45_backends.md R435). -/
theorem InRange.shiftStep (hp : s.par.backend = .pio) (hrem : 0 < s.shRem) : InRange (shiftStep s) := by
  have hfit : s.shSrc + s.shRem ≤ 4096 := h.shift
  rw [shiftStep_eq]
  refine { h with shift := ?fit, regIdle := fun hr => absurd (hp.symm.trans hr) nofun, pulses := ?pulses }
  case fit =>
    show s.shSrc + 1 + (s.shRem - 1) ≤ 4096
    omega
  case pulses =>
    obtain ⟨-, hlat⟩ := h.pulses
    exact ⟨rfl, hlat⟩

theorem InRange.muxsmStep {i : Nat} (hi : s.muxPend = some i) : InRange (muxsmStep s) := by
  rw [muxsmStep_eq hi]
  refine { h with muxPend := nofun, regIdle := fun hr => ?_ }
  obtain ⟨hrem, hsrc, hslot, -⟩ := h.regIdle hr
  exact ⟨hrem, hsrc, hslot, rfl⟩

theorem InRange.seqPhase1 : InRange (seqPhase1 s) := by
  obtain ⟨hclk, -⟩ := h.pulses
  rw [seqPhase1_eq]
  exact { h with pulses := ⟨hclk, rfl⟩ }

theorem InRange.seqPhase2 : InRange (seqPhase2 s) := by
  unfold Machine.seqPhase2
  dsimp only
  split_ifs
  · exact { InRange.exchange (s := { s with framecnt := s.framecnt + 1#32 }) { h with } with }
  · exact { h with }
  · exact { h with }

end

section
variable {s : State} (h : Invariant s)
include h

/-- Phase 0 opens no window longer than the period, and hands PIO the row number of a generated entry
(43_refresh_sequencer.md R340, 45_backends.md R441). -/
theorem Invariant.seqPhase0_inRange (hr : s.run = true) : InRange (seqPhase0 s) := by
  have hlight : lightCounts s ≤ 2 ^ s.par.timerWidth := (lightCounts_le_period s).trans h.range.period
  cases hp : s.par.backend with
  | reg => rw [seqPhase0_reg hp]; exact { h.range with onCnt := hlight }
  | pio =>
    obtain ⟨hv, -, -, -⟩ := h.spec.running hr
    obtain ⟨-, -, -, -, -, hmax, -⟩ := (cfgValid_iff s).mp hv
    obtain ⟨hset, -⟩ := h.coherent.table hr s.nm h.range.nm
    have hrow : (muxEntry s.muxset s.nm).toNat < 32 := hset ▸ tableEntry_pio_lt hp hmax s.nm
    rw [seqPhase0_pio hp]
    exact { h.range with
      onCnt := hlight
      muxPend := fun i hi => Option.some.inj hi ▸ hrow
      regIdle := fun hr => absurd (hp.symm.trans hr) nofun }

/-- Phase 3 shifts a row of the frame, which lies in the slot (43_refresh_sequencer.md R348). -/
theorem Invariant.seqPhase3_inRange (hr : s.run = true) : InRange (seqPhase3 s) := by
  obtain ⟨hv, hrow, -, -⟩ := h.spec.running hr
  obtain ⟨-, -, -, -, hpos, hmax, -, -, hframe, -⟩ := (cfgValid_iff s).mp hv
  have hnext : nextRow s < s.nrows.toNat := Nat.mod_lt _ hpos
  have hfit : nextRow s * rowBytes s + rowBytes s ≤ 4096 := (rows_fit _ hnext).trans hframe
  exact { h.range.shiftRow (fslot s) _ hfit with
    row := hnext.trans_le hmax
    nm := hrow.trans_le hmax }

theorem Invariant.seqStep_inRange (hr : s.run = true) : InRange (seqStep s) := by
  obtain hp | hp | hp | hp := phase_cases s.phase
  · rw [seqStep_zero hp]; exact h.seqPhase0_inRange hr
  · rw [seqStep_one hp]; exact h.range.seqPhase1
  · rw [seqStep_two hp]; exact h.range.seqPhase2
  · rw [seqStep_three hp]; exact h.seqPhase3_inRange hr

/-- Every turn keeps the ranges. -/
theorem Invariant.turnEffect_inRange {τ : Turn} {t : State} (he : TurnEffect s τ t) : InRange t := by
  cases he with
  | hold => exact h.range
  | reset => exact resetInput_inRange s
  | timer hr => exact h.range.timerStep hr
  | seq hr => exact h.seqStep_inRange hr
  | copy hc => exact h.range.copyStep hc
  | shift hp hrem => exact h.range.shiftStep hp hrem
  | muxsm _ i hi => exact h.range.muxsmStep hi
  | host w q i t _ _ _ he => exact InRange.execEffect (s := { s with hostq := q }) { h.range with } he
  | illegal w q => exact InRange.refuseTransaction (s := { s with hostq := q }) { h.range with } _

end

/-- Settles O52: a step is a turn, every effect of which keeps the ranges. -/
theorem stepKeepsRanges : Obligations.StepKeepsRanges := by
  intro s t h hstep
  obtain ⟨τ, turns, turn, ht⟩ := step_takesTurn hstep
  have h' : Invariant { s with turns := turns, turn := turn } :=
    ⟨{ h.spec with }, { h.range with }, { h.coherent with }⟩
  exact h'.turnEffect_inRange (takeTurn_effect ht)

end Sys2Proof.Machine
end

section
/-! SUPPORT. The invariants at reset, the OE output and the output trace (10_state.md R60, R70, R78). -/

namespace Sys2Proof.Machine

/-! ### The invariants at reset -/

/-- The block is stopped after the reset input, so nothing is asked of the table, the panel or the agents. -/
theorem resetInput_coherent (s : State) : Coherent (resetInput s) where
  table := nofun
  unusedLines := nofun
  panel := nofun
  lookahead := nofun
  pending := nofun
  shifted := nofun
  slot := nofun
  transfer := nofun
  dark := nofun

theorem resetInput_invariant (s : State) : Invariant (resetInput s) :=
  ⟨resetInput_specInvariant s, resetInput_inRange s, resetInput_coherent s⟩

theorem resetInput_selectsRow (s : State) : SelectsRow (resetInput s) := ⟨nofun, nofun⟩

/-- Settles O50: power-on leaves what the reset input does. -/
theorem resetHasInvariant : Obligations.ResetHasInvariant := by
  unfold Obligations.ResetHasInvariant
  rw [reset_eq_resetInput]
  exact ⟨resetInput_invariant _, resetInput_selectsRow _⟩

/-! ### The OE output -/

/-- The four conditions of `oe_active` (10_state.md R60). -/
theorem oeActive_iff (s : State) :
    oeActive s = true ↔ s.run = true ∧ s.busy = false ∧ s.oeArmed = true ∧ s.cnt < s.onCnt := by
  simp [oeActive, and_assoc]

/-- The pin is at 1 when the output is active, and inverted when it is active low (R60). -/
theorem oePin_iff (s : State) : oePin s = true ↔ (oeActive s = true ↔ s.oeLow = false) := by
  cases ha : oeActive s <;> cases hl : s.oeLow <;> simp [oePin, ha, hl]

/-- Settles O28: by the four conditions of `oe_active` and the levels of the pin. -/
theorem outputEnableWindow : Obligations.OutputEnableWindow := by
  intro s
  refine ⟨?dark, ?lit, oePin_iff s⟩
  case dark =>
    intro hdark
    rw [← Bool.not_eq_true, oeActive_iff]
    rintro ⟨hr, hb, harm, -⟩
    obtain h | h | h := hdark
    · exact flag_absurd hr h
    · exact flag_absurd h hb
    · exact flag_absurd harm h
  case lit =>
    intro hr hb harm
    simp [oeActive_iff, hr, hb, harm]

/-! ### The output trace -/

/-- The outputs that are stored: the mux lines, the data line and the panel's registers (10_state.md R59, R76). -/
def outputs (s : State) : Word × Bool × List Bool × List Bool := (s.muxLvl, s.dataLvl, s.panelSr, s.panelLr)

theorem outputs_eq_iff {s t : State} : outputs t = outputs s ↔
    t.muxLvl = s.muxLvl ∧ t.dataLvl = s.dataLvl ∧ t.panelSr = s.panelSr ∧ t.panelLr = s.panelLr := by
  simp [outputs]

/-- `t`'s trace continues that of `s`, and with no event between them the outputs are the same. -/
def ContinuesTrace (s t : State) : Prop := ∃ es, t.trace = s.trace ++ es ∧ (es = [] → outputs t = outputs s)

namespace ContinuesTrace

/-- Nothing is emitted and no output changes. -/
theorem of_silent {s t : State} (ht : t.trace = s.trace) (ho : outputs t = outputs s) : ContinuesTrace s t :=
  ⟨[], by simp [ht], fun _ => ho⟩

/-- An event is emitted. -/
theorem of_event {s t : State} {e : Event} {es : List Event} (ht : t.trace = s.trace ++ e :: es) : ContinuesTrace s t :=
  ⟨e :: es, ht, nofun⟩

theorem refl (s : State) : ContinuesTrace s s := of_silent rfl rfl

theorem trans {s t u : State} (h1 : ContinuesTrace s t) (h2 : ContinuesTrace t u) : ContinuesTrace s u := by
  obtain ⟨es, ht, ho⟩ := h1
  obtain ⟨es', hu, ho'⟩ := h2
  refine ⟨es ++ es', by rw [hu, ht, List.append_assoc], fun hnil => ?_⟩
  obtain ⟨hes, hes'⟩ := List.append_eq_nil_iff.mp hnil
  exact (ho' hes').trans (ho hes)

theorem emit (e : Event) (s : State) : ContinuesTrace s (emit e s) := of_event (emit_trace e s)

theorem emitAll (es : List Event) (s : State) : ContinuesTrace s (emitAll es s) := by
  induction es generalizing s with
  | nil => exact refl s
  | cons e es ih => exact (emit e s).trans (ih _)

theorem refuseTransaction (wr : Bool) (s : State) : ContinuesTrace s (refuseTransaction wr s) := by
  cases wr <;> exact of_silent rfl rfl

theorem memWrite (a n : Nat) (v : Word) (s : State) : ContinuesTrace s (memWrite a n v s) := by
  rw [memWrite_eq]
  exact of_silent rfl rfl

/-- REG shifts the row's bits; PIO only starts the transfer (45_backends.md R431, R434). -/
theorem shiftRow (k : Fin 2) (base : Nat) (s : State) : ContinuesTrace s (shiftRow k base s) := by
  unfold Machine.shiftRow
  split
  · exact emitAll _ s
  · exact of_silent rfl rfl

/-- A start may redraw the panel's registers, but always drives the mux lines to 0 first (43_refresh_sequencer.md R323). -/
theorem acceptedStart (s : State) : ContinuesTrace s (acceptedStart s) := by
  obtain ⟨es, hes, -⟩ := shiftRow (fslot _) 0 (fitPanel (driveMux 0#32 (clearSequencer (loadTiming (generateMuxTable s)))))
  refine of_event (e := .muxSet 0#32) (es := es) (hes.trans ?_)
  simp [driveMux]

theorem start (s : State) : ContinuesTrace s (start s) := by
  unfold Machine.start
  split
  · exact acceptedStart s
  · exact of_silent rfl rfl

/-- A stop closes an open light window (43_refresh_sequencer.md R326). -/
theorem stop (s : State) : ContinuesTrace s (stop s) := by
  rw [stop_eq]
  cases s.oeArmed with
  | true => exact of_event rfl
  | false => exact of_silent rfl rfl

theorem requestSwap (req copy : Bool) (s : State) : ContinuesTrace s (requestSwap req copy s) := by
  unfold Machine.requestSwap
  split_ifs <;> exact of_silent rfl rfl

theorem writeControl (en db : Bool) (s : State) : ContinuesTrace s (writeControl en db s) := by
  have he := writeControl_effect en db s
  generalize Machine.writeControl en db s = t at he ⊢
  cases he with
  | stopped => exact stop s
  | stoppedDb => exact (stop s).trans (of_silent rfl rfl)
  | started => exact start s
  | startedDb => exact (of_silent rfl rfl).trans (start (setDoubleBuffer db s))
  | _ => exact of_silent rfl rfl

theorem execEffect {s t : State} {i : Instr} (he : ExecEffect s i t) : ContinuesTrace s t := by
  cases he with
  | misaligned => exact refuseTransaction _ s
  | ctrl d => exact (writeControl _ _ s).trans (of_silent rfl rfl)
  | swap d => exact (requestSwap _ _ s).trans (of_silent rfl rfl)
  | store _ n a d => exact (memWrite _ n d s).trans (of_silent rfl rfl)
  | _ => exact of_silent rfl rfl

theorem timerStep (s : State) : ContinuesTrace s (timerStep s) := by
  unfold Machine.timerStep
  split_ifs <;> exact of_silent rfl rfl

/-- Phase 0 closes the light window under either backend (43_refresh_sequencer.md R340). -/
theorem seqPhase0 (s : State) : ContinuesTrace s (seqPhase0 s) := by
  cases hp : s.par.backend with
  | reg => rw [seqPhase0_reg hp]; exact of_event rfl
  | pio => rw [seqPhase0_pio hp]; exact of_event rfl

theorem seqStep (s : State) : ContinuesTrace s (seqStep s) := by
  obtain hp | hp | hp | hp := phase_cases s.phase
  · rw [seqStep_zero hp]
    exact seqPhase0 s
  · rw [seqStep_one hp, seqPhase1_eq]
    exact of_event rfl
  · rw [seqStep_two hp, seqPhase2_eq]
    split_ifs <;> exact of_silent rfl rfl
  · rw [seqStep_three hp]
    exact (shiftRow _ _ s).trans (of_silent rfl rfl)

theorem shiftStep (s : State) : ContinuesTrace s (shiftStep s) := (emitAll _ s).trans (of_silent rfl rfl)

/-- Every turn but the reset input continues the trace. -/
theorem turnEffect {s t : State} {τ : Turn} (hτ : τ ≠ .reset) (he : TurnEffect s τ t) : ContinuesTrace s t := by
  cases he with
  | hold => exact refl s
  | reset => exact absurd rfl hτ
  | timer => exact timerStep s
  | seq => exact seqStep s
  | copy => exact of_silent rfl rfl
  | shift => exact shiftStep s
  | muxsm _ i hi => rw [muxsmStep_eq hi]; exact of_event rfl
  | host w q i t _ _ _ he => exact .trans (t := { s with hostq := q }) (of_silent rfl rfl) (execEffect he)
  | illegal w q => exact .trans (t := { s with hostq := q }) (of_silent rfl rfl) (refuseTransaction _ _)

end ContinuesTrace

/-- Settles O46: every effect of a turn but the reset input continues the trace. -/
theorem traceOnlyGrows : Obligations.TraceOnlyGrows := by
  intro τ s t hτ h
  obtain ⟨es, htrace, hout⟩ := ContinuesTrace.turnEffect hτ (takeTurn_effect h)
  exact ⟨es, htrace, fun hnil => outputs_eq_iff.mp (hout hnil)⟩

end Sys2Proof.Machine
end

section
/-! SUPPORT. The buffer windows (20_memory.md R103 to R107): what a window read answers, what a BACK write stores, and the
misaligned forms. -/

namespace Sys2Proof.Machine

/-! ### Little-endian values -/

/-- The `n` bytes of slot `k` from `i` on as one little-endian value (20_memory.md R103). -/
def littleEndian (k : Fin 2) (i n : Nat) (s : State) : Word :=
  BitVec.ofNat 32 ((List.range n).map fun t => (bufRead k (i + t) s).toNat * 2 ^ (8 * t)).sum

/-- Bytes put above a byte count 256-fold. -/
theorem toNat_append_byte {n : Nat} (x : BitVec n) (y : Byte) : (x ++ y).toNat = x.toNat * 2 ^ 8 + y.toNat := by
  rw [BitVec.toNat_append, ← Nat.shiftLeft_add_eq_or_of_lt y.isLt, Nat.shiftLeft_eq]

theorem sum_range_two (f : Nat → Nat) : ((List.range 2).map f).sum = f 0 + f 1 := by simp [List.range_succ]

theorem sum_range_four (f : Nat → Nat) : ((List.range 4).map f).sum = f 0 + f 1 + f 2 + f 3 := by
  simp [List.range_succ, Nat.add_assoc]

section
variable (k : Fin 2) (i : Nat) (s : State)

/-- A little-endian value from the number its bytes spell, whatever the width of that number. -/
theorem littleEndian_eq_setWidth {w n : Nat} (x : BitVec w)
    (h : ((List.range n).map fun t => (bufRead k (i + t) s).toNat * 2 ^ (8 * t)).sum = x.toNat) :
    littleEndian k i n s = x.setWidth 32 := by
  rw [littleEndian, h, BitVec.ofNat_toNat]

theorem littleEndian_one : littleEndian k i 1 s = (bufRead k i s).setWidth 32 :=
  littleEndian_eq_setWidth k i s _ (by simp)

theorem littleEndian_two : littleEndian k i 2 s = (bufRead k (i + 1) s ++ bufRead k i s).setWidth 32 := by
  refine littleEndian_eq_setWidth k i s _ ?_
  rw [sum_range_two]
  simp only [toNat_append_byte, Nat.add_zero]
  ring

theorem littleEndian_four : littleEndian k i 4 s
    = bufRead k (i + 3) s ++ bufRead k (i + 2) s ++ bufRead k (i + 1) s ++ bufRead k i s := by
  refine (littleEndian_eq_setWidth k i s _ ?_).trans (BitVec.setWidth_eq _)
  rw [sum_range_four]
  simp only [toNat_append_byte, Nat.add_zero]
  ring

end

/-! ### The meanings of the window transactions -/

theorem halfAligned_iff (i : BitVec 12) : halfAligned i = true ↔ i.toNat % 2 = 0 := by simp [halfAligned]

theorem wordAligned_iff (i : BitVec 12) : wordAligned i = true ↔ i.toNat % 4 = 0 := by simp [wordAligned]

section
variable {al : Bool} (i : BitVec 12) (s : State) (n : Nat)

/-- An aligned BACK read answers from the back slot (20_memory.md R105). -/
theorem windowRead_back (h : al = true) :
    windowRead backBase n al i s = { s with rdata := some (littleEndian (bslot s) i.toNat n s) } := by
  have hslot : windowSlot (0x1000 + i.toNat) s = bslot s := if_pos (by omega)
  have hindex : (0x1000 + i.toNat) % 0x1000 = i.toNat := by omega
  simp only [windowRead, if_pos h, respond, memRead, backBase, hslot, hindex, littleEndian]

/-- An aligned FRONT read answers from the front slot (20_memory.md R105). -/
theorem windowRead_front (h : al = true) :
    windowRead frontBase n al i s = { s with rdata := some (littleEndian (fslot s) i.toNat n s) } := by
  have hslot : windowSlot (0x2000 + i.toNat) s = fslot s := if_neg (by omega)
  have hindex : (0x2000 + i.toNat) % 0x1000 = i.toNat := by omega
  simp only [windowRead, if_pos h, respond, memRead, frontBase, hslot, hindex, littleEndian]

/-- An aligned BACK write (20_memory.md R106). -/
theorem windowWrite_aligned (h : al = true) (v : Word) :
    windowWrite n al i v s = acknowledge (memWrite (0x1000 + i.toNat) n v s) := if_pos h

/-- A misaligned read is a bus error that reads 0 (20_memory.md R107, 30_encoding.md R160). -/
theorem windowRead_misaligned (h : ¬al = true) (base : Nat) :
    windowRead base n al i s = { s with berr := true, rdata := some 0#32 } := if_neg h

/-- A misaligned write is a bus error that writes nothing (R107, R160). -/
theorem windowWrite_misaligned (h : ¬al = true) (v : Word) :
    windowWrite n al i v s = { s with berr := true, rdata := none } := if_neg h

end

/-! ### The statements on window accesses -/

/-- Settles O13: each read answers the little-endian value of its slot's bytes. -/
theorem bufferReadsLittleEndian : Obligations.BufferReadsLittleEndian := by
  intro s i
  refine ⟨?back8, ?front8, fun h => ?half, fun h => ?word⟩
  case back8 =>
    rw [← littleEndian_one]
    exact congrArg Host.Outcome.next (windowRead_back i s 1 rfl)
  case front8 =>
    rw [← littleEndian_one]
    exact congrArg Host.Outcome.next (windowRead_front i s 1 rfl)
  case half =>
    have ha := (halfAligned_iff i).mpr h
    rw [← littleEndian_two, ← littleEndian_two]
    exact ⟨congrArg Host.Outcome.next (windowRead_back i s 2 ha), congrArg Host.Outcome.next (windowRead_front i s 2 ha)⟩
  case word =>
    have ha := (wordAligned_iff i).mpr h
    rw [← littleEndian_four, ← littleEndian_four]
    exact ⟨congrArg Host.Outcome.next (windowRead_back i s 4 ha), congrArg Host.Outcome.next (windowRead_front i s 4 ha)⟩

/-- The bytes an aligned BACK write stores, and its frame (20_memory.md R106). -/
theorem windowWrite_stores {s : State} (hwf : Memory.wf s.store = true) (i : BitVec 12) (v : Word) {n : Nat} {al : Bool}
    (ha : al = true) (hn : i.toNat + n ≤ 4096) :
    windowWrite n al i v s = { s with store := (windowWrite n al i v s).store, rdata := none }
      ∧ (∀ k, k < n → bufRead (bslot s) (i.toNat + k) (windowWrite n al i v s) = v.extractLsb' (8 * k) 8)
      ∧ ∀ k j, ¬(k = bslot s ∧ i.toNat ≤ j ∧ j < i.toNat + n) → bufRead k j (windowWrite n al i v s) = bufRead k j s := by
  have hbase : 0x1000 + i.toNat - 0x1000 = i.toNat := Nat.add_sub_cancel_left ..
  have hbyte k j : bufRead k j (windowWrite n al i v s)
      = if k = bslot s ∧ i.toNat ≤ j ∧ j < i.toNat + n then v.extractLsb' (8 * (j - i.toNat)) 8 else bufRead k j s := by
    have h := bufRead_memWrite hwf (0x1000 + i.toNat) n v k j (by omega)
    rw [hbase] at h
    rw [windowWrite_aligned i s n ha, ← h]
    rfl
  refine ⟨?frame, fun k hk => ?stored, fun k j h => ?kept⟩
  case frame => rw [windowWrite_aligned i s n ha, memWrite_eq]; rfl
  case stored => rw [hbyte, if_pos ⟨rfl, by omega, by omega⟩, Nat.add_sub_cancel_left]
  case kept => rw [hbyte, if_neg h]

/-- Settles O14: an aligned access of `n` bytes stays in the slot. -/
theorem bufferWritesStoreBytes : Obligations.BufferWritesStoreBytes := by
  rintro s i v hwf n ins (⟨rfl, rfl⟩ | ⟨rfl, h, rfl⟩ | ⟨rfl, h, rfl⟩)
  · exact ⟨_, rfl, windowWrite_stores hwf i v rfl (by omega)⟩
  · exact ⟨_, rfl, windowWrite_stores hwf i v ((halfAligned_iff i).mpr h) (by omega)⟩
  · exact ⟨_, rfl, windowWrite_stores hwf i v ((wordAligned_iff i).mpr h) (by omega)⟩

/-- An index inside an aligned word, with no carry out of the 12 bits. -/
theorem toNat_add_of_wordAligned {a : BitVec 12} (ha : a.toNat % 4 = 0) {k : Nat} (hk : k ≤ 3) :
    (a + BitVec.ofNat 12 k).toNat = a.toNat + k := by
  rw [BitVec.toNat_add, BitVec.toNat_ofNat]
  omega

/-- Settles O15: the reads of O13 see the bytes O14 says the write has stored. -/
theorem mixedWidthAccess : Obligations.MixedWidthAccess := by
  intro s t a v hwf ha hexec
  obtain ⟨t', hexec', hframe, hstored, -⟩ := bufferWritesStoreBytes s a v hwf 4 _ (.inr (.inr ⟨rfl, ha, rfl⟩))
  obtain rfl := Host.Outcome.next.inj (hexec.symm.trans hexec')
  have hslot : bslot t = bslot s := by rw [hframe]; rfl
  have hbyte k (hk : k < 4) : bufRead (bslot t) (a.toNat + k) t = v.extractLsb' (8 * k) 8 := hslot ▸ hstored k hk
  refine ⟨fun k hk => ?byte, ?half⟩
  case byte =>
    obtain ⟨hread, -⟩ := bufferReadsLittleEndian t (a + BitVec.ofNat 12 k)
    rw [hread, toNat_add_of_wordAligned ha hk, hbyte k (by omega)]
  case half =>
    have hindex : (a + 2#12).toNat = a.toNat + 2 := toNat_add_of_wordAligned ha (by omega)
    obtain ⟨-, -, hread, -⟩ := bufferReadsLittleEndian t (a + 2#12)
    obtain ⟨hread, -⟩ := hread (by omega)
    have hpair : v.extractLsb' (8 * 3) 8 ++ v.extractLsb' (8 * 2) 8 = v.extractLsb' 16 16 :=
      BitVec.extractLsb'_append_extractLsb'_eq_extractLsb' rfl
    rw [hread, hindex, hbyte 2 (by omega), Nat.add_assoc, hbyte 3 (by omega), hpair]

/-- Settles O16: each misaligned form is refused. -/
theorem misalignedFormsAreBusErrors : Obligations.MisalignedFormsAreBusErrors := by
  intro s i v
  refine ⟨fun h => ?half, fun h => ?word⟩
  case half =>
    have ha := mt (halfAligned_iff i).mp h
    exact ⟨congrArg Host.Outcome.next (windowRead_misaligned i s 2 ha _),
      congrArg Host.Outcome.next (windowRead_misaligned i s 2 ha _),
      congrArg Host.Outcome.next (windowWrite_misaligned i s 2 ha v)⟩
  case word =>
    have ha := mt (wordAligned_iff i).mp h
    exact ⟨congrArg Host.Outcome.next (windowRead_misaligned i s 4 ha _),
      congrArg Host.Outcome.next (windowRead_misaligned i s 4 ha _),
      congrArg Host.Outcome.next (windowWrite_misaligned i s 4 ha v)⟩

end Sys2Proof.Machine
end

section
/-! SUPPORT. Where the front slot and the buffer bytes change (20_memory.md R121): each effect of a turn, taken in turn. -/

namespace Sys2Proof.Machine

/-! ### The front slot -/

theorem fslot_congr {s t : State} (hdb : t.db = s.db) (hfront : t.front = s.front) : fslot t = fslot s := by
  simp only [fslot, hdb, hfront]

@[simp] theorem fslot_refuseTransaction (wr : Bool) (s : State) : fslot (refuseTransaction wr s) = fslot s :=
  fslot_congr (by simp) (by simp)

@[simp] theorem fslot_start (s : State) : fslot (start s) = fslot s := by
  unfold start
  split
  · exact fslot_congr (by simp) (by simp)
  · rfl

@[simp] theorem fslot_timerStep (s : State) : fslot (timerStep s) = fslot s := by
  unfold timerStep
  split_ifs <;> rfl

/-- Of the sub-phases of a burst only phase 2 exchanges the slots, at the frame boundary with a swap pending
(43_refresh_sequencer.md R344, 44_swap_arbiter.md R384). -/
theorem fslot_seqStep {s : State} (h : fslot (seqStep s) ≠ fslot s) :
    s.phase = 2 ∧ s.row = s.nrows.toNat - 1 ∧ s.swapReq = true := by
  obtain hp | hp | hp | hp := phase_cases s.phase
  · rw [seqStep_zero hp] at h
    exact absurd (fslot_congr (applyMux_db _ _) (applyMux_front _ _)) h
  · rw [seqStep_one hp, seqPhase1_eq] at h
    exact absurd rfl h
  · rw [seqStep_two hp, seqPhase2_eq] at h
    by_cases hrow : s.row = s.nrows.toNat - 1
    · rw [if_pos hrow] at h
      by_cases hswap : s.swapReq = true
      · exact ⟨hp, hrow, hswap⟩
      · rw [if_neg hswap] at h
        exact absurd rfl h
    · rw [if_neg hrow] at h
      exact absurd rfl h
  · rw [seqStep_three hp] at h
    exact absurd (fslot_congr (shiftRow_db _ _ s) (shiftRow_front _ _ s)) h

/-- A `CTRL` write changes the front slot in a stop, or while stopped where it changes `DB` (40_host_registers.md R203,
70_reset_and_hazards.md R562). -/
theorem fslot_writeControl {en db : Bool} {s : State} (h : fslot (writeControl en db s) ≠ fslot s) :
    (s.run = true ∧ en = false) ∨ (s.run = false ∧ db ≠ s.db) := by
  have he := writeControl_effect en db s
  generalize writeControl en db s = t at h he
  cases he with
  | stopped hr he => exact .inl ⟨hr, he⟩
  | stoppedDb hr he => exact .inl ⟨hr, he⟩
  | storedDb hr _ hd => exact .inr ⟨hr, hd⟩
  | startedDb hr _ hd => exact .inr ⟨hr, hd⟩
  | started => exact absurd (fslot_start s) h
  | refused => exact absurd rfl h
  | kept => exact absurd rfl h

/-- A swap request changes the front slot while stopped (44_swap_arbiter.md R386). -/
theorem fslot_requestSwap {req copy : Bool} {s : State} (h : fslot (requestSwap req copy s) ≠ fslot s) :
    s.run = false ∧ req = true := by
  unfold requestSwap at h
  split_ifs at h with hnoop hr
  · exact absurd rfl h
  · exact absurd rfl h
  · simp only [Bool.or_eq_true, Bool.not_eq_true', not_or, Bool.not_eq_false] at hnoop
    obtain ⟨⟨⟨hreq, -⟩, -⟩, -⟩ := hnoop
    exact ⟨Bool.not_eq_true _ ▸ hr, hreq⟩

/-- The two instructions that can change the front slot, and when. -/
theorem fslot_execEffect {s t : State} {i : Instr} (he : ExecEffect s i t) (h : fslot t ≠ fslot s) :
    (∃ d, i = .wrCtrl d ∧ ((s.run = true ∧ d.getLsbD 0 = false) ∨ (s.run = false ∧ d.getLsbD 1 ≠ s.db)))
      ∨ ∃ d, i = .wrSwap d ∧ s.run = false ∧ d.getLsbD 0 = true := by
  cases he with
  | ctrl d => exact .inl ⟨d, rfl, fslot_writeControl h⟩
  | swap d => exact .inr ⟨d, rfl, fslot_requestSwap h⟩
  | misaligned => exact absurd (fslot_refuseTransaction _ s) h
  | store _ n a d =>
    rw [memWrite_eq] at h
    exact absurd rfl h
  | _ => exact absurd rfl h

/-- Settles O44: of a turn's effects only the sequencer's, the host's and the reset input's can exchange the slots. -/
theorem frontSlotChangesOnlyAtExchange : Obligations.FrontSlotChangesOnlyAtExchange := by
  intro τ s t hturn h
  cases takeTurn_effect hturn with
  | hold => exact absurd rfl h
  | reset => exact .inl rfl
  | timer => exact absurd (fslot_timerStep s) h
  | seq hr hb =>
    obtain ⟨hphase, hrow, hswap⟩ := fslot_seqStep h
    exact .inr (.inl ⟨rfl, hr, hb, hphase, hrow, hswap⟩)
  | copy => exact absurd rfl h
  | shift =>
    rw [shiftStep_eq] at h
    exact absurd rfl h
  | muxsm _ i hi =>
    rw [muxsmStep_eq hi] at h
    exact absurd rfl h
  | host w q i t hb hq hd he =>
    obtain ⟨d, rfl, hwhen⟩ | ⟨d, rfl, hwhen⟩ := fslot_execEffect he h
    · exact .inr (.inr (.inl ⟨d, ⟨rfl, hb, w, q, hq, hd⟩, hwhen⟩))
    · exact .inr (.inr (.inr ⟨d, ⟨rfl, hb, w, q, hq, hd⟩, hwhen⟩))
  | illegal => exact absurd (fslot_refuseTransaction _ _) h

/-! ### The buffer bytes -/

/-- A BACK write leaves the other slot alone (20_memory.md R106). -/
theorem bufRead_memWrite_other (a n : Nat) (v : Word) (s : State) {k : Fin 2} (hk : k ≠ bslot s) (i : Nat) :
    bufRead k i (memWrite a n v s) = bufRead k i s := by
  unfold memWrite
  generalize bslot s = b at hk
  generalize List.range n = l
  induction l generalizing s with
  | nil => rfl
  | cons t l ih => exact (ih _).trans (bufRead_bufWrite_other s _ (.inl hk))

/-- A COPY step leaves the other slot alone (44_swap_arbiter.md R388). -/
theorem bufRead_copyStep_other (s : State) {k : Fin 2} (hk : k ≠ bslot s) (i : Nat) :
    bufRead k i (copyStep s) = bufRead k i s := by
  rw [copyStep_eq]
  exact bufRead_bufWrite_other s (bufRead (fslot s) s.copyIdx s) (.inl hk)

@[simp] theorem start_store (s : State) : (start s).store = s.store := by
  unfold start
  split <;> simp

@[simp] theorem stop_store (s : State) : (stop s).store = s.store := by rw [stop_eq]

@[simp] theorem writeControl_store (en db : Bool) (s : State) : (writeControl en db s).store = s.store := by
  have he := writeControl_effect en db s
  generalize writeControl en db s = t at he
  cases he with
  | stopped => exact stop_store s
  | stoppedDb => exact stop_store s
  | started => exact start_store s
  | startedDb => exact start_store (setDoubleBuffer db s)
  | _ => rfl

@[simp] theorem requestSwap_store (req copy : Bool) (s : State) : (requestSwap req copy s).store = s.store := by
  unfold requestSwap
  split_ifs <;> rfl

@[simp] theorem timerStep_store (s : State) : (timerStep s).store = s.store := by
  unfold timerStep
  split_ifs <;> rfl

@[simp] theorem seqStep_store (s : State) : (seqStep s).store = s.store := by
  obtain hp | hp | hp | hp := phase_cases s.phase
  · rw [seqStep_zero hp]
    exact applyMux_store _ _
  · rw [seqStep_one hp, seqPhase1_eq]
  · rw [seqStep_two hp, seqPhase2_eq]
    split_ifs <;> rfl
  · rw [seqStep_three hp]
    exact shiftRow_store _ _ s

/-- An instruction that changes a byte is a BACK write, and the byte is in the back slot. -/
theorem bufRead_execEffect {s t : State} {i : Instr} (he : ExecEffect s i t) {k : Fin 2} {j : Nat}
    (h : bufRead k j t ≠ bufRead k j s) :
    k = bslot s ∧ ∃ a d, i = .wr8Back a d ∨ i = .wr16Back a d ∨ i = .wr32Back a d := by
  cases he with
  | store _ n a d hi =>
    refine ⟨?_, a, d, hi⟩
    by_contra hk
    exact h (bufRead_memWrite_other _ n d s hk j)
  | misaligned => exact absurd (bufRead_congr (refuseTransaction_store _ s) k j) h
  | ctrl d => exact absurd (bufRead_congr (writeControl_store _ _ s) k j) h
  | swap d => exact absurd (bufRead_congr (requestSwap_store _ _ s) k j) h
  | _ => exact absurd rfl h

/-- Settles O45: of a turn's effects only a COPY step, a BACK write and the reset input write the store. -/
theorem onlyHostAndCopyWriteBuffers : Obligations.OnlyHostAndCopyWriteBuffers := by
  intro τ s t k j hturn h
  cases takeTurn_effect hturn with
  | hold => exact absurd rfl h
  | reset => exact .inl rfl
  | timer => exact absurd (bufRead_congr (timerStep_store s) k j) h
  | seq => exact absurd (bufRead_congr (seqStep_store s) k j) h
  | copy =>
    refine .inr ⟨?_, .inl rfl⟩
    by_contra hk
    exact h (bufRead_copyStep_other s hk j)
  | shift =>
    rw [shiftStep_eq] at h
    exact absurd rfl h
  | muxsm _ i hi =>
    rw [muxsmStep_eq hi] at h
    exact absurd rfl h
  | host w q i t hb hq hd he =>
    obtain ⟨hk, a, d, hi⟩ := bufRead_execEffect he h
    have hperforms : HostPerforms (.agent .host) s i := ⟨rfl, hb, w, q, hq, hd⟩
    refine .inr ⟨hk, .inr ⟨a, d, ?_⟩⟩
    obtain rfl | rfl | rfl := hi
    · exact .inl hperforms
    · exact .inr (.inl hperforms)
    · exact .inr (.inr hperforms)
  | illegal w q => exact absurd (bufRead_congr (refuseTransaction_store _ { s with hostq := q }) k j) h

end Sys2Proof.Machine
end

section
/-! SUPPORT. The buffer bytes at and above `SIZE` (93_implementation_defined.md U14): every operation of a running block takes
two states that agree but for them, and for the last response, to two that still do. The row shifts and the SHIFT step read
the frame only; a COPY step and a BACK write store the same bytes of the frame in both; every other operation leaves the store
alone and does not look at it. -/

namespace Sys2Proof.Machine

/-- `s` with the store `m` and the last response `r`. -/
def withBytes (m : Memory) (r : Option Word) (s : State) : State := { s with store := m, rdata := r }

/-- All that a COPY step can do to a byte (44_swap_arbiter.md R388). -/
theorem bufRead_copyStep {s : State} (h : Memory.wf s.store = true) (k : Fin 2) (i : Nat) : bufRead k i (copyStep s)
    = if k = bslot s ∧ i = s.copyIdx ∧ s.copyIdx < 4096 then bufRead (fslot s) s.copyIdx s else bufRead k i s :=
  bufRead_bufWrite h (bslot s) k s.copyIdx i (bufRead (fslot s) s.copyIdx s)

/-- A `CTRL` write with `EN = 0`, from the point where the block is stopped: it starts nothing, so it shifts no row
(40_host_registers.md R203). -/
theorem controlStopped_withBytes (m : Memory) (r : Option Word) (db : Bool) (s : State) :
    controlStopped false db (withBytes m r s) = (controlStopped false db s).map (withBytes m r) := by
  have hdb : (withBytes m r s).db = s.db := rfl
  have hc : (withBytes m r s).copyBusy = s.copyBusy := rfl
  simp only [controlStopped, hdb, hc, Bool.false_eq_true, if_false]
  split_ifs <;> rfl

/-! ### Agreement on the frame -/

namespace AgreeOnFrame

variable {s t : State}

section
variable (h : AgreeOnFrame s t)
include h

theorem exists_withBytes : ∃ m r, t = withBytes m r s := by
  obtain ⟨heq, -⟩ := h
  exact ⟨_, _, heq⟩

/-- Two states that keep the stores of `s` and `t`, and the frame's size, and differ in store and response only. -/
theorem of_stores {u v : State} (heq : v = { u with store := v.store, rdata := v.rdata }) (hu : u.store = s.store)
    (hv : v.store = t.store) (hframe : frameBytes u = frameBytes s) : AgreeOnFrame u v := by
  refine ⟨heq, fun k i hi => ?_⟩
  obtain ⟨-, hbytes⟩ := h
  rw [bufRead_congr hv, bufRead_congr hu]
  exact hbytes k i (hframe ▸ hi)

/-- An operation that neither looks at the store and the response nor changes them, and keeps the frame's size. -/
theorem map {f : State → State} (hf : ∀ m r, f (withBytes m r s) = withBytes m r (f s))
    (hframe : frameBytes (f s) = frameBytes s) : AgreeOnFrame (f s) (f t) := by
  have hsame : f s = withBytes s.store s.rdata (f s) := hf s.store s.rdata
  have hstore : (f s).store = s.store := by rw [hsame]; rfl
  obtain ⟨m, r, rfl⟩ := h.exists_withBytes
  rw [hf]
  exact h.of_stores rfl hstore rfl hframe

/-! ### Responses and faults -/

theorem respond (v w : Word) : AgreeOnFrame (respond v s) (respond w t) := by
  obtain ⟨m, r, rfl⟩ := h.exists_withBytes
  exact h.of_stores rfl rfl rfl rfl

theorem acknowledge : AgreeOnFrame (acknowledge s) (acknowledge t) := by
  obtain ⟨m, r, rfl⟩ := h.exists_withBytes
  exact h.of_stores rfl rfl rfl rfl

theorem raiseBusError : AgreeOnFrame (raiseBusError s) (raiseBusError t) := h.map (fun _ _ => rfl) rfl

theorem refuseTransaction (wr : Bool) : AgreeOnFrame (refuseTransaction wr s) (refuseTransaction wr t) := by
  cases wr with
  | false => exact (h.respond _ _).raiseBusError
  | true => exact h.acknowledge.raiseBusError

/-! ### What reads the frame -/

/-- The bits of bytes of the frame. -/
theorem rowLevels_eq (k : Fin 2) {base n : Nat} (hfit : base + n ≤ frameBytes s) :
    rowLevels k base n t = rowLevels k base n s := by
  obtain ⟨m, r, rfl⟩ := h.exists_withBytes
  obtain ⟨-, hbytes⟩ := h
  exact rowLevels_congr (s := s) (t := withBytes m r s) rfl k base n fun j hj => hbytes k (base + j) (by omega)

/-- A row shift reads bytes of the frame (20_memory.md R102). -/
theorem shiftRow (k : Fin 2) {base : Nat} (hfit : base + rowBytes s ≤ frameBytes s) :
    AgreeOnFrame (shiftRow k base s) (shiftRow k base t) := by
  have hlevels := h.rowLevels_eq k hfit
  obtain ⟨m, r, rfl⟩ := h.exists_withBytes
  have hn : rowBytes (withBytes m r s) = rowBytes s := rfl
  have hp : (withBytes m r s).par.backend = s.par.backend := rfl
  unfold Machine.shiftRow
  rw [hp]
  cases s.par.backend with
  | reg =>
    simp only [shiftRowReg_eq, hn, hlevels]
    exact h.of_stores rfl rfl rfl rfl
  | pio => exact h.of_stores rfl rfl rfl rfl

/-- A SHIFT step reads a byte of the frame. -/
theorem shiftStep (hfit : s.shSrc < frameBytes s) : AgreeOnFrame (shiftStep s) (shiftStep t) := by
  have hbyte : bufRead s.shSlot s.shSrc t = bufRead s.shSlot s.shSrc s := by
    obtain ⟨-, hbytes⟩ := h
    exact hbytes _ _ hfit
  obtain ⟨m, r, rfl⟩ := h.exists_withBytes
  have hread : bufRead (withBytes m r s).shSlot (withBytes m r s).shSrc (withBytes m r s) = bufRead s.shSlot s.shSrc s := hbyte
  rw [shiftStep_eq, shiftStep_eq, hread]
  exact h.of_stores rfl rfl rfl rfl

/-! ### What writes the store -/

/-- A COPY step writes a byte of the frame with a byte of the frame (44_swap_arbiter.md R388). -/
theorem copyStep (hs : Memory.wf s.store = true) (ht : Memory.wf t.store = true) :
    AgreeOnFrame (copyStep s) (copyStep t) := by
  obtain ⟨m, r, rfl⟩ := h.exists_withBytes
  refine ⟨rfl, fun k i (hi : i < frameBytes s) => ?_⟩
  obtain ⟨-, hbytes⟩ := h
  have hcopied := bufRead_copyStep hs k i
  have hcopied' : bufRead k i (Machine.copyStep (withBytes m r s)) = if k = bslot s ∧ i = s.copyIdx ∧ s.copyIdx < 4096
      then bufRead (fslot s) s.copyIdx (withBytes m r s) else bufRead k i (withBytes m r s) := bufRead_copyStep ht k i
  rw [hcopied, hcopied']
  split_ifs with hc
  · obtain ⟨-, rfl, -⟩ := hc
    exact hbytes (fslot s) s.copyIdx hi
  · exact hbytes k i hi

/-- A BACK write stores the same bytes in both. -/
theorem memWrite (hs : Memory.wf s.store = true) (ht : Memory.wf t.store = true) {a n : Nat} (v : Word)
    (hfit : a - 0x1000 + n ≤ 4096) : AgreeOnFrame (memWrite a n v s) (memWrite a n v t) := by
  have hframe : frameBytes (Machine.memWrite a n v s) = frameBytes s := by rw [memWrite_eq]; rfl
  obtain ⟨m, r, rfl⟩ := h.exists_withBytes
  obtain ⟨-, hbytes⟩ := h
  refine ⟨?_, fun k i hi => ?_⟩
  · rw [memWrite_eq a n v s, memWrite_eq a n v (withBytes m r s)]; rfl
  · rw [bufRead_memWrite hs a n v k i hfit, bufRead_memWrite ht a n v k i hfit, hbytes k i (hframe ▸ hi)]
    rfl

/-! ### The agents of the block -/

theorem timerStep : AgreeOnFrame (timerStep s) (timerStep t) := by
  refine h.map (fun m r => ?_) ?_
  · have ht : tickDue (withBytes m r s) = tickDue s := rfl
    have hr : (withBytes m r s).reloadPending = s.reloadPending := rfl
    simp only [Machine.timerStep, ht, hr]
    split_ifs <;> rfl
  · unfold Machine.timerStep
    split_ifs <;> rfl

theorem seqPhase0 : AgreeOnFrame (seqPhase0 s) (seqPhase0 t) := by
  obtain ⟨m, r, rfl⟩ := h.exists_withBytes
  cases hp : s.par.backend with
  | reg =>
    rw [seqPhase0_reg hp, seqPhase0_reg (s := withBytes m r s) hp]
    exact h.of_stores rfl rfl rfl rfl
  | pio =>
    rw [seqPhase0_pio hp, seqPhase0_pio (s := withBytes m r s) hp]
    exact h.of_stores rfl rfl rfl rfl

theorem seqPhase1 : AgreeOnFrame (seqPhase1 s) (seqPhase1 t) := h.map (fun _ _ => rfl) rfl

theorem seqPhase2 : AgreeOnFrame (seqPhase2 s) (seqPhase2 t) := by
  refine h.map (fun m r => ?_) ?_
  · simp only [seqPhase2_eq, apply_ite (withBytes m r)]
    rfl
  · rw [seqPhase2_eq]
    split_ifs <;> rfl

/-- Phase 3 shifts a row of the frame, since the next row is one (43_refresh_sequencer.md R348). -/
theorem seqPhase3 (hc : cfgValid s = true) : AgreeOnFrame (seqPhase3 s) (seqPhase3 t) := by
  have hrow := rows_fit _ (Nat.mod_lt (s.row + 1) (nrows_pos hc))
  have hshift := h.shiftRow (fslot s) (base := nextRow s * rowBytes s) hrow
  obtain ⟨m, r, rfl⟩ := h.exists_withBytes
  exact hshift.map (f := fun u => leaveBurst { u with nm := s.row + 1, row := nextRow s }) (fun _ _ => rfl) rfl

theorem seqStep (hc : cfgValid s = true) : AgreeOnFrame (seqStep s) (seqStep t) := by
  have hphase : t.phase = s.phase := by
    obtain ⟨m, r, rfl⟩ := h.exists_withBytes
    rfl
  obtain hp | hp | hp | hp := phase_cases s.phase
  · rw [seqStep_zero hp, seqStep_zero (hphase.trans hp)]
    exact h.seqPhase0
  · rw [seqStep_one hp, seqStep_one (hphase.trans hp)]
    exact h.seqPhase1
  · rw [seqStep_two hp, seqStep_two (hphase.trans hp)]
    exact h.seqPhase2
  · rw [seqStep_three hp, seqStep_three (hphase.trans hp)]
    exact h.seqPhase3 hc

theorem muxsmStep : AgreeOnFrame (muxsmStep s) (muxsmStep t) := by
  obtain ⟨m, r, rfl⟩ := h.exists_withBytes
  have hm : (withBytes m r s).muxPend = s.muxPend := rfl
  unfold Machine.muxsmStep
  rw [hm]
  cases s.muxPend with
  | none => exact h
  | some i => exact h.of_stores rfl rfl rfl rfl

/-! ### The host's transactions -/

theorem requestSwap (req copy : Bool) : AgreeOnFrame (requestSwap req copy s) (requestSwap req copy t) := by
  refine h.map (fun m r => ?_) ?_
  · simp only [Machine.requestSwap, apply_ite (withBytes m r)]
    rfl
  · unfold Machine.requestSwap
    split_ifs <;> rfl

/-- A `CTRL` write to a running block keeps it running, stops it or is refused (40_host_registers.md R203). -/
theorem writeControl (hr : s.run = true) (en db : Bool) :
    AgreeOnFrame (writeControl en db s) (writeControl en db t) := by
  refine h.map (fun m r => ?_) ?_
  · have hrun : (withBytes m r s).run = true := hr
    have hdb : (withBytes m r s).db = s.db := rfl
    have hstop : stop (withBytes m r s) = withBytes m r (stop s) := by
      rw [stop_eq, stop_eq]
      rfl
    cases en with
    | true =>
      simp only [Machine.writeControl, controlEffect, hr, hrun, hdb, if_true]
      split_ifs <;> rfl
    | false =>
      simp only [Machine.writeControl, controlEffect, hr, hrun, hstop, if_true, Bool.false_eq_true, if_false,
        controlStopped_withBytes]
      cases controlStopped false db (stop s) <;> rfl
  · have he := writeControl_effect en db s
    generalize Machine.writeControl en db s = u at he
    cases he with
    | stopped => rw [stop_eq]; rfl
    | stoppedDb => rw [stop_eq]; rfl
    | started hstopped => exact flag_absurd hr hstopped
    | startedDb hstopped => exact flag_absurd hr hstopped
    | _ => rfl

/-- A configuration write to a running block is a bus error (R215, R217, R219). -/
theorem configure (hr : s.run = true) (f : State → State) : AgreeOnFrame (configure f s) (configure f t) := by
  obtain ⟨m, r, rfl⟩ := h.exists_withBytes
  have hrun : (withBytes m r s).run = true := hr
  rw [Machine.configure, Machine.configure, if_pos hr, if_pos hrun]
  exact h.raiseBusError

theorem windowRead (base n : Nat) (al : Bool) (i : BitVec 12) :
    AgreeOnFrame (windowRead base n al i s) (windowRead base n al i t) := by
  cases al with
  | false => exact h.refuseTransaction false
  | true => exact h.respond _ _

theorem windowWrite (hs : Memory.wf s.store = true) (ht : Memory.wf t.store = true) {n : Nat} {al : Bool} {i : BitVec 12}
    (v : Word) (hfit : al = true → i.toNat + n ≤ 4096) :
    AgreeOnFrame (windowWrite n al i v s) (windowWrite n al i v t) := by
  cases al with
  | false => exact h.refuseTransaction true
  | true =>
    have hn := hfit rfl
    exact (h.memWrite hs ht v (by rw [backBase]; omega)).acknowledge

/-- Every instruction: a read answers, a write goes through the operations above. -/
theorem exec (hr : s.run = true) (hs : Memory.wf s.store = true) (ht : Memory.wf t.store = true) {i : Instr} {u v : State}
    (hu : exec i s = .next u) (hv : exec i t = .next v) : AgreeOnFrame u v := by
  cases i <;> obtain rfl := Host.Outcome.next.inj hu <;> obtain rfl := Host.Outcome.next.inj hv
  case wrCtrl d => exact (h.writeControl hr _ _).acknowledge
  case wrStatus d => exact (h.map (f := clearSticky d) (fun _ _ => rfl) rfl).acknowledge
  case wrBright d => exact (h.map (f := fun u => { u with bright := brightB d }) (fun _ _ => rfl) rfl).acknowledge
  case wrSwap d => exact (h.requestSwap _ _).acknowledge
  case wrScanUs d =>
    exact (h.map (f := fun u => { u with scanUs := d, reloadPending := u.reloadPending || u.run })
      (fun _ _ => rfl) rfl).acknowledge
  case wrGeom0 d => exact (h.configure hr _).acknowledge
  case wrGeom1 d => exact (h.configure hr _).acknowledge
  case wrPol d => exact (h.configure hr _).acknowledge
  case rd8Back a => exact h.windowRead _ _ _ a
  case rd16Back a => exact h.windowRead _ _ _ a
  case rd32Back a => exact h.windowRead _ _ _ a
  case rd8Front a => exact h.windowRead _ _ _ a
  case rd16Front a => exact h.windowRead _ _ _ a
  case rd32Front a => exact h.windowRead _ _ _ a
  case wr8Back a d => exact h.windowWrite hs ht d fun _ => by omega
  case wr16Back a d => exact h.windowWrite hs ht d fun ha => by have := (halfAligned_iff a).mp ha; omega
  case wr32Back a d => exact h.windowWrite hs ht d fun ha => by have := (wordAligned_iff a).mp ha; omega
  all_goals exact h.respond _ _

theorem hostStep (hr : s.run = true) (hs : Memory.wf s.store = true) (ht : Memory.wf t.store = true) {u v : State}
    (hu : hostStep s = .next u) (hv : hostStep t = .next v) : AgreeOnFrame u v := by
  have hq : t.hostq = s.hostq := by
    obtain ⟨m, r, rfl⟩ := h.exists_withBytes
    rfl
  unfold Machine.hostStep at hu hv
  rw [hq] at hv
  cases hsq : s.hostq with
  | nil =>
    rw [hsq] at hu hv
    obtain rfl := Host.Outcome.next.inj hu
    obtain rfl := Host.Outcome.next.inj hv
    exact h
  | cons w q =>
    have htaken := h.map (f := fun u => { u with hostq := q }) (fun _ _ => rfl) rfl
    simp only [hsq] at hu hv
    cases hd : decode w with
    | ok i =>
      rw [hd] at hu hv
      exact htaken.exec hr hs ht hu hv
    | error e =>
      rw [hd] at hu hv
      obtain rfl := Host.Outcome.next.inj hu
      obtain rfl := Host.Outcome.next.inj hv
      exact htaken.refuseTransaction _

/-! ### A turn -/

theorem enabled_eq (a : Agent) : enabled a t = enabled a s := by
  obtain ⟨m, r, rfl⟩ := h.exists_withBytes
  cases a <;> rfl

theorem agentStep (hinv : Invariant s) (hr : s.run = true) (ht : Memory.wf t.store = true) {a : Agent}
    (ha : enabled a s = true) {u v : State} (hu : agentStep a s = .next u) (hv : agentStep a t = .next v) :
    AgreeOnFrame u v := by
  obtain ⟨hspec, hrange, hcoherent⟩ := hinv
  obtain ⟨hc, -⟩ := hspec.running hr
  cases a
  case host => exact h.hostStep hr hrange.store ht hu hv
  all_goals obtain rfl := Host.Outcome.next.inj hu
  all_goals obtain rfl := Host.Outcome.next.inj hv
  case timer => exact h.timerStep
  case seq => exact h.seqStep hc
  case copy => exact h.copyStep hrange.store ht
  case shift =>
    simp only [enabled, Bool.and_eq_true, decide_eq_true_eq] at ha
    obtain ⟨-, hrem⟩ := ha
    have := hcoherent.transfer hrem
    exact h.shiftStep (by omega)
  case muxsm => exact h.muxsmStep

end

end AgreeOnFrame

/-- Settles O48: an enabled agent's step keeps the agreement, and the reset input leaves the block stopped. -/
theorem unscannedBytesAreNeverShown : Obligations.UnscannedBytesAreNeverShown := by
  intro τ s₁ s₂ t₁ t₂ hinv hr hwf h h₁ h₂ hrun
  cases τ with
  | reset =>
    obtain rfl := Host.Outcome.next.inj h₁
    exact flag_absurd hrun rfl
  | agent a =>
    simp only [takeTurn, h.enabled_eq] at h₁ h₂
    cases ha : enabled a s₁ with
    | true =>
      rw [ha, if_pos rfl] at h₁ h₂
      exact h.agentStep hinv hr hwf ha h₁ h₂
    | false =>
      rw [ha] at h₁ h₂
      obtain rfl := Host.Outcome.next.inj h₁
      obtain rfl := Host.Outcome.next.inj h₂
      exact h

end Sys2Proof.Machine
end

section
/-! SUPPORT. The encoding (30_encoding.md): the decoder, the encoder and the opcode map are three descriptions of one relation
between transactions and instructions. `RowMeans` states that relation row by row; the decoder is tied to it by
`decode_eq_ok_iff`, the encoder by `RowMeans.encode` and the opcode map by `rowMeans_mem` and `exists_rowMeans`. -/

namespace Sys2Proof

/-! ### The fields of a transaction -/

/-- The four fields determine a transaction and are determined by it (30_encoding.md R150). -/
theorem assemble_eq_iff {sz : BitVec 2} {wr : Bool} {off : BitVec 15} {data : Word} {t : Transaction} :
    t = assemble sz wr off data ↔ sizeField t = sz ∧ isWrite t = wr ∧ offField t = off ∧ dataField t = data := by
  refine ⟨fun h => by simp [h], ?_⟩
  rintro ⟨rfl, rfl, rfl, rfl⟩
  exact (assemble_fields t).symm

/-- A mask acts on each field alone. -/
theorem and_assemble (t : Transaction) (sz : BitVec 2) (wr : Bool) (off : BitVec 15) (data : Word) :
    t &&& assemble sz wr off data
      = assemble (sizeField t &&& sz) (isWrite t && wr) (offField t &&& off) (dataField t &&& data) := by
  refine assemble_eq_iff.mpr ⟨?_, ?_, ?_, ?_⟩
  · rw [sizeField, BitVec.extractLsb'_and]; exact congrArg _ (sizeField_assemble ..)
  · rw [isWrite, BitVec.getLsbD_and]; exact congrArg _ (isWrite_assemble ..)
  · rw [offField, BitVec.extractLsb'_and]; exact congrArg _ (offField_assemble ..)
  · rw [dataField, BitVec.extractLsb'_and]; exact congrArg _ (dataField_assemble ..)

/-- The mask of bits 49 to 32 keeps every field but `DATA`. -/
theorem and_headerMask (t : Transaction) :
    t &&& 0x3FFFF00000000#50 = assemble (sizeField t) (isWrite t) (offField t) 0#32 := by
  have hmask : 0x3FFFF00000000#50 = assemble 3#2 true 0x7FFF#15 0#32 := by decide
  have hsz : sizeField t &&& 3#2 = sizeField t := BitVec.and_allOnes
  have hoff : offField t &&& 0x7FFF#15 = offField t := BitVec.and_allOnes
  rw [hmask, and_assemble, hsz, hoff, Bool.and_true, BitVec.and_zero]

/-- An offset is its window and the index in it (20_memory.md R101). -/
theorem window_append_index (off : BitVec 15) : off.extractLsb' 12 3 ++ off.extractLsb' 0 12 = off :=
  (BitVec.extractLsb'_append_extractLsb'_eq_extractLsb' rfl).trans BitVec.extractLsb'_eq_self

@[simp] theorem window_append (w : BitVec 3) (i : BitVec 12) : (w ++ i).extractLsb' 12 3 = w :=
  BitVec.extractLsb'_append_eq_left

@[simp] theorem index_append (w : BitVec 3) (i : BitVec 12) : (w ++ i).extractLsb' 0 12 = i :=
  BitVec.extractLsb'_append_eq_right

/-- A register offset is its upper eight bits, the entry number and the two alignment bits (30_encoding.md R157). -/
theorem entry_append (off : BitVec 15) : off.extractLsb' 7 8 ++ off.extractLsb' 2 5 ++ off.extractLsb' 0 2 = off := by
  have hhigh : off.extractLsb' 7 8 ++ off.extractLsb' 2 5 = off.extractLsb' 2 13 :=
    BitVec.extractLsb'_append_extractLsb'_eq_extractLsb' rfl
  rw [hhigh]
  exact (BitVec.extractLsb'_append_extractLsb'_eq_extractLsb' rfl).trans BitVec.extractLsb'_eq_self

@[simp] theorem entry_append_high (hi : BitVec 8) (idx : BitVec 5) (lo : BitVec 2) :
    (hi ++ idx ++ lo).extractLsb' 7 8 = hi := by
  ext k hk
  simp only [BitVec.getElem_extractLsb', BitVec.getLsbD_append]
  rw [if_neg (by omega), if_neg (by omega), ← BitVec.getLsbD_eq_getElem]
  congr 1
  omega

@[simp] theorem entry_append_index (hi : BitVec 8) (idx : BitVec 5) (lo : BitVec 2) :
    (hi ++ idx ++ lo).extractLsb' 2 5 = idx := by
  ext k hk
  simp only [BitVec.getElem_extractLsb', BitVec.getLsbD_append]
  rw [if_neg (by omega), if_pos (by omega), ← BitVec.getLsbD_eq_getElem]
  congr 1
  omega

@[simp] theorem entry_append_low (hi : BitVec 8) (idx : BitVec 5) (lo : BitVec 2) :
    (hi ++ idx ++ lo).extractLsb' 0 2 = lo := BitVec.extractLsb'_append_eq_right

/-- The offsets `hi ++ idx ++ 00` of a mux table are those its row's mask selects. -/
theorem and_muxMask (off : BitVec 15) (hi : BitVec 8) :
    off &&& 0x7F83#15 = hi ++ 0#5 ++ 0#2 ↔ off.extractLsb' 7 8 = hi ∧ off.extractLsb' 0 2 = 0#2 := by
  have hmask : off &&& 0x7F83#15 = off.extractLsb' 7 8 ++ 0#5 ++ off.extractLsb' 0 2 := by
    have hfields : 0x7F83#15 = 0xFF#8 ++ 0#5 ++ 3#2 := by decide
    have hhigh : ∀ x : BitVec 8, x &&& 0xFF#8 = x := fun x => BitVec.and_allOnes
    have hlow : ∀ x : BitVec 2, x &&& 3#2 = x := fun x => BitVec.and_allOnes
    conv_lhs => rw [← entry_append off, hfields]
    rw [BitVec.and_append, BitVec.and_append, hhigh, hlow, BitVec.and_zero]
  rw [hmask]
  refine ⟨fun h => ⟨?_, ?_⟩, fun ⟨hh, hl⟩ => by rw [hh, hl]⟩
  · simpa using congrArg (fun x => x.extractLsb' 7 8) h
  · simpa using congrArg (fun x => x.extractLsb' 0 2) h

/-- The window of a mux table's offsets. -/
theorem window_of_high {off : BitVec 15} {hi : BitVec 8} (h : off.extractLsb' 7 8 = hi) :
    off.extractLsb' 12 3 = hi.extractLsb' 5 3 := by
  ext k hk
  rw [← h, BitVec.getElem_extractLsb', BitVec.getElem_extractLsb', BitVec.getLsbD_extractLsb', ← Nat.add_assoc]
  simp [show 5 + k < 8 by omega]

/-- The offsets of the window `w` whose index has no bit of `m` are those a window row's mask selects. -/
theorem and_windowMask (off : BitVec 15) (w : BitVec 3) (m : BitVec 12) : off &&& (7#3 ++ m) = w ++ 0#12
    ↔ off.extractLsb' 12 3 = w ∧ off.extractLsb' 0 12 &&& m = 0#12 := by
  have hmask : off &&& (7#3 ++ m) = off.extractLsb' 12 3 ++ (off.extractLsb' 0 12 &&& m) := by
    have hall : ∀ x : BitVec 3, x &&& 7#3 = x := fun x => BitVec.and_allOnes
    conv_lhs => rw [← window_append_index off]
    rw [BitVec.and_append, hall]
  rw [hmask]
  refine ⟨fun h => ⟨?_, ?_⟩, fun ⟨hw, h0⟩ => by rw [hw, h0]⟩
  · simpa using congrArg (fun x => x.extractLsb' 12 3) h
  · simpa using congrArg (fun x => x.extractLsb' 0 12) h

/-! ### The decoder -/

/-- A word access of the register window (30_encoding.md R157). -/
theorem decode_of_register {t : Transaction} (hsz : sizeField t = 2#2) (hwin : (offField t).extractLsb' 12 3 = 0#3) :
    decode t = decodeReg (isWrite t) (offField t) (dataField t) := by
  rw [decode, hsz, if_neg (by decide), if_pos hwin, if_pos rfl]

/-- An access of the BACK window (30_encoding.md R155, R156). -/
theorem decode_of_back {t : Transaction} (hsz : sizeField t ≠ 3#2) (hwin : (offField t).extractLsb' 12 3 = 1#3) :
    decode t = decodeBack (sizeField t) (isWrite t) ((offField t).extractLsb' 0 12) (dataField t) := by
  rw [decode, if_neg hsz, hwin, if_neg (by decide), if_pos rfl]

/-- An access of the FRONT window (30_encoding.md R155). -/
theorem decode_of_front {t : Transaction} (hsz : sizeField t ≠ 3#2) (hwin : (offField t).extractLsb' 12 3 = 2#3) :
    decode t = decodeFront (sizeField t) (isWrite t) ((offField t).extractLsb' 0 12) := by
  rw [decode, if_neg hsz, hwin, if_neg (by decide), if_neg (by decide), if_pos rfl]

theorem decode_register {off : BitVec 15} (h : off.extractLsb' 12 3 = 0#3) (wr : Bool) (data : Word) :
    decode (assemble 2#2 wr off data) = decodeReg wr off data := by
  simpa [h] using decode_of_register (t := assemble 2#2 wr off data)

theorem decode_back {sz : BitVec 2} (h : sz ≠ 3#2) (wr : Bool) (i : BitVec 12) (data : Word) :
    decode (assemble sz wr (1#3 ++ i) data) = decodeBack sz wr i data := by
  simpa [h] using decode_of_back (t := assemble sz wr (1#3 ++ i) data)

theorem decode_front {sz : BitVec 2} (h : sz ≠ 3#2) (wr : Bool) (i : BitVec 12) (data : Word) :
    decode (assemble sz wr (2#3 ++ i) data) = decodeFront sz wr i := by
  simpa [h] using decode_of_front (t := assemble sz wr (2#3 ++ i) data)

/-- The registers lie in the register window. -/
theorem window_of_mem : ∀ r ∈ regMap, r.offset.extractLsb' 12 3 = 0#3 := by decide

/-- A register of the map is read at its offset. -/
theorem decodeReg_read {r : RegRow} (h : r ∈ regMap) (data : Word) : decodeReg false r.offset data = .ok r.rd := by
  fin_cases h <;> rfl

/-- A register of the map that can be written is written at its offset. -/
theorem decodeReg_write {r : RegRow} (h : r ∈ regMap) {mk : Word → Instr} (hw : r.wr = some mk) (data : Word) :
    decodeReg true r.offset data = .ok (mk data) := by
  fin_cases h <;> cases hw <;> rfl

/-- Entry `idx` of the set masks (40_host_registers.md R224). -/
theorem decodeReg_muxset {off : BitVec 15} (hhigh : off.extractLsb' 7 8 = 2#8) (hlow : off.extractLsb' 0 2 = 0#2)
    (data : Word) : decodeReg false off data = .ok (.rdMuxset (off.extractLsb' 2 5)) := by
  simp [decodeReg, hhigh, hlow]

/-- Entry `idx` of the clear masks (40_host_registers.md R226). -/
theorem decodeReg_muxclr {off : BitVec 15} (hhigh : off.extractLsb' 7 8 = 4#8) (hlow : off.extractLsb' 0 2 = 0#2)
    (data : Word) : decodeReg false off data = .ok (.rdMuxclr (off.extractLsb' 2 5)) := by
  simp [decodeReg, hhigh, hlow]

/-- Settles O1: each encoding is in its window, and there at its register or at an aligned index. -/
theorem decodeOfEncode : Obligations.DecodeOfEncode := by
  intro i hwf
  cases i with
  | rdMuxset idx =>
    have hlow : (2#8 ++ idx ++ 0#2).extractLsb' 0 2 = 0#2 := entry_append_low ..
    have hhigh : (2#8 ++ idx ++ 0#2).extractLsb' 7 8 = 2#8 := entry_append_high ..
    rw [encode, encodeRegRead, decode_register (window_of_high hhigh), decodeReg_muxset hhigh hlow, entry_append_index]
  | rdMuxclr idx =>
    have hlow : (4#8 ++ idx ++ 0#2).extractLsb' 0 2 = 0#2 := entry_append_low ..
    have hhigh : (4#8 ++ idx ++ 0#2).extractLsb' 7 8 = 4#8 := entry_append_high ..
    rw [encode, encodeRegRead, decode_register (window_of_high hhigh), decodeReg_muxclr hhigh hlow, entry_append_index]
  | rd8Back i => exact decode_back (by decide) false i 0#32
  | rd16Back i => exact (decode_back (by decide) false i 0#32).trans (if_pos hwf)
  | rd32Back i => exact (decode_back (by decide) false i 0#32).trans (if_pos hwf)
  | wr8Back i data => exact decode_back (by decide) true i data
  | wr16Back i data => exact (decode_back (by decide) true i data).trans (if_pos hwf)
  | wr32Back i data => exact (decode_back (by decide) true i data).trans (if_pos hwf)
  | rd8Front i => exact decode_front (by decide) false i 0#32
  | rd16Front i => exact (decode_front (by decide) false i 0#32).trans (if_pos hwf)
  | rd32Front i => exact (decode_front (by decide) false i 0#32).trans (if_pos hwf)
  | _ => exact decode_register (by decide) _ _

/-! ### The opcode map, row by row -/

/-- The instruction of a window access, `i = OFF[11:0]`. -/
def backInstr (sz : BitVec 2) (wr : Bool) (i : BitVec 12) (data : Word) : Instr :=
  if sz = 0#2 then if wr then .wr8Back i data else .rd8Back i
  else if sz = 1#2 then if wr then .wr16Back i data else .rd16Back i
  else if wr then .wr32Back i data else .rd32Back i

/-- The instruction of a FRONT access. -/
def frontInstr (sz : BitVec 2) (i : BitVec 12) : Instr :=
  if sz = 0#2 then .rd8Front i else if sz = 1#2 then .rd16Front i else .rd32Front i

/-- The index is aligned to the size `sz` (20_memory.md R107). -/
def sizeAligned (sz : BitVec 2) (i : BitVec 12) : Bool :=
  if sz = 0#2 then true else if sz = 1#2 then halfAligned i else wordAligned i

/-- The index bits an aligned access of size `sz` leaves 0 (20_memory.md R107). -/
def alignmentBits (sz : BitVec 2) : BitVec 12 :=
  if sz = 0#2 then 0#12 else if sz = 1#2 then 1#12 else 3#12

theorem sizeAligned_iff (sz : BitVec 2) (i : BitVec 12) : sizeAligned sz i = true ↔ i &&& alignmentBits sz = 0#12 := by
  have hhalf : i.toNat &&& 1 = i.toNat % 2 := Nat.and_two_pow_sub_one_eq_mod i.toNat 1
  have hword : i.toNat &&& 3 = i.toNat % 4 := Nat.and_two_pow_sub_one_eq_mod i.toNat 2
  unfold sizeAligned alignmentBits
  split_ifs
  · simp
  · simp [halfAligned, ← BitVec.toNat_inj, hhalf]
  · simp [wordAligned, ← BitVec.toNat_inj, hword]

theorem decodeBack_eq (sz : BitVec 2) (wr : Bool) (i : BitVec 12) (data : Word) : decodeBack sz wr i data
    = if sizeAligned sz i then .ok (backInstr sz wr i data) else .error .misalignedBuffer := by
  unfold decodeBack sizeAligned backInstr
  by_cases h0 : sz = 0#2
  · simp only [if_pos h0, if_true]
  · by_cases h1 : sz = 1#2
    · simp only [if_neg h0, if_pos h1]
    · simp only [if_neg h0, if_neg h1]

theorem decodeFront_eq (sz : BitVec 2) (wr : Bool) (i : BitVec 12) : decodeFront sz wr i
    = if wr then .error .frontWindowWrite
      else if sizeAligned sz i then .ok (frontInstr sz i) else .error .misalignedBuffer := by
  unfold decodeFront sizeAligned frontInstr
  by_cases h0 : sz = 0#2
  · simp only [if_pos h0, if_true]
  · by_cases h1 : sz = 1#2
    · simp only [if_neg h0, if_pos h1]
    · simp only [if_neg h0, if_neg h1]

/-- A row of the opcode map from the fields it compares: `SZ`, `WR` and the bits of `OFF` under `offMask`. -/
def fieldRow (mnemonic : String) (sz : BitVec 2) (wr : Bool) (off offMask : BitVec 15) : OpcodeRow :=
  ⟨mnemonic, assemble sz wr off 0#32, assemble 3#2 true offMask 0#32⟩

theorem fieldRow_hits {m : String} {sz : BitVec 2} {wr : Bool} {off offMask : BitVec 15} {t : Transaction} :
    (fieldRow m sz wr off offMask).hits t = true
      ↔ sizeField t = sz ∧ isWrite t = wr ∧ offField t &&& offMask = off := by
  have hsz : sizeField t &&& 3#2 = sizeField t := BitVec.and_allOnes
  simp only [OpcodeRow.hits, fieldRow, beq_iff_eq, and_assemble, assemble_eq_iff, sizeField_assemble, isWrite_assemble,
    offField_assemble, dataField_assemble, hsz, Bool.and_true, BitVec.and_zero, and_true]

/-- The row of a register's read (30_encoding.md R157). -/
def readRow (r : RegRow) : OpcodeRow := fieldRow r.rd.mnemonic 2#2 false r.offset 0x7FFF#15

/-- The row of a register's write, which performs `mk data`. -/
def writeRow (r : RegRow) (mk : Word → Instr) : OpcodeRow := fieldRow (mk 0#32).mnemonic 2#2 true r.offset 0x7FFF#15

/-- The row of the mux table whose offsets have the upper bits `hi` (R157). -/
def muxRow (mnemonic : String) (hi : BitVec 8) : OpcodeRow := fieldRow mnemonic 2#2 false (hi ++ 0#5 ++ 0#2) 0x7F83#15

/-- The row of an access of the window `w` (R155, R156). -/
def windowRow (mnemonic : String) (sz : BitVec 2) (wr : Bool) (w : BitVec 3) : OpcodeRow :=
  fieldRow mnemonic sz wr (w ++ 0#12) (7#3 ++ alignmentBits sz)

theorem readRow_hits {r : RegRow} {t : Transaction} :
    (readRow r).hits t = true ↔ sizeField t = 2#2 ∧ isWrite t = false ∧ offField t = r.offset := by
  have hoff : offField t &&& 0x7FFF#15 = offField t := BitVec.and_allOnes
  rw [readRow, fieldRow_hits, hoff]

theorem writeRow_hits {r : RegRow} {mk : Word → Instr} {t : Transaction} :
    (writeRow r mk).hits t = true ↔ sizeField t = 2#2 ∧ isWrite t = true ∧ offField t = r.offset := by
  have hoff : offField t &&& 0x7FFF#15 = offField t := BitVec.and_allOnes
  rw [writeRow, fieldRow_hits, hoff]

theorem muxRow_hits {m : String} {hi : BitVec 8} {t : Transaction} :
    (muxRow m hi).hits t = true ↔ sizeField t = 2#2 ∧ isWrite t = false
      ∧ (offField t).extractLsb' 7 8 = hi ∧ (offField t).extractLsb' 0 2 = 0#2 := by
  rw [muxRow, fieldRow_hits, and_muxMask]

theorem windowRow_hits {m : String} {sz : BitVec 2} {wr : Bool} {w : BitVec 3} {t : Transaction} :
    (windowRow m sz wr w).hits t = true ↔ sizeField t = sz ∧ isWrite t = wr
      ∧ (offField t).extractLsb' 12 3 = w ∧ sizeAligned sz ((offField t).extractLsb' 0 12) = true := by
  rw [windowRow, fieldRow_hits, and_windowMask, sizeAligned_iff]

/-- The rows of the opcode map (30_encoding.md R158), each with the instruction it makes of the `OFF` and `DATA` of a
transaction that matches it. -/
inductive RowMeans : OpcodeRow → (BitVec 15 → Word → Instr) → Prop where
  | read {r : RegRow} (h : r ∈ regMap) : RowMeans (readRow r) fun _ _ => r.rd
  | write {r : RegRow} {mk : Word → Instr} (h : r ∈ regMap) (hw : r.wr = some mk) :
      RowMeans (writeRow r mk) fun _ data => mk data
  | muxset : RowMeans (muxRow "RD_MUXSET" 2#8) fun off _ => .rdMuxset (off.extractLsb' 2 5)
  | muxclr : RowMeans (muxRow "RD_MUXCLR" 4#8) fun off _ => .rdMuxclr (off.extractLsb' 2 5)
  | back {sz : BitVec 2} (h : sz ≠ 3#2) (wr : Bool) :
      RowMeans (windowRow (backInstr sz wr 0#12 0#32).mnemonic sz wr 1#3) fun off data =>
        backInstr sz wr (off.extractLsb' 0 12) data
  | front {sz : BitVec 2} (h : sz ≠ 3#2) :
      RowMeans (windowRow (frontInstr sz 0#12).mnemonic sz false 2#3) fun off _ => frontInstr sz (off.extractLsb' 0 12)

/-- Each row of the opcode map is one of these. -/
theorem exists_rowMeans {x : OpcodeRow} (h : x ∈ opcodeMap) : ∃ mk, RowMeans x mk := by
  have hcases : ∀ x ∈ opcodeMap, (∃ r ∈ regMap, x = readRow r) ∨ (∃ r ∈ regMap, ∃ mk ∈ r.wr, x = writeRow r mk)
      ∨ x = muxRow "RD_MUXSET" 2#8 ∨ x = muxRow "RD_MUXCLR" 4#8
      ∨ (∃ sz wr, sz ≠ 3#2 ∧ x = windowRow (backInstr sz wr 0#12 0#32).mnemonic sz wr 1#3)
      ∨ (∃ sz, sz ≠ 3#2 ∧ x = windowRow (frontInstr sz 0#12).mnemonic sz false 2#3) := by
    decide
  obtain ⟨r, hr, rfl⟩ | ⟨r, hr, mk, hw, rfl⟩ | rfl | rfl | ⟨sz, wr, hsz, rfl⟩ | ⟨sz, hsz, rfl⟩ := hcases x h
  · exact ⟨_, .read hr⟩
  · exact ⟨_, .write hr hw⟩
  · exact ⟨_, .muxset⟩
  · exact ⟨_, .muxclr⟩
  · exact ⟨_, .back hsz wr⟩
  · exact ⟨_, .front hsz⟩

theorem mem_opcodeMap_read : ∀ r ∈ regMap, readRow r ∈ opcodeMap := by decide

theorem mem_opcodeMap_write : ∀ r ∈ regMap, ∀ mk ∈ r.wr, writeRow r mk ∈ opcodeMap := by decide

theorem mem_opcodeMap_back : ∀ sz wr, sz ≠ 3#2 → windowRow (backInstr sz wr 0#12 0#32).mnemonic sz wr 1#3 ∈ opcodeMap := by
  decide

theorem mem_opcodeMap_front : ∀ sz, sz ≠ 3#2 → windowRow (frontInstr sz 0#12).mnemonic sz false 2#3 ∈ opcodeMap := by decide

/-- Each of these is a row of the opcode map. -/
theorem RowMeans.mem_opcodeMap {x : OpcodeRow} {mk : BitVec 15 → Word → Instr} (h : RowMeans x mk) : x ∈ opcodeMap := by
  cases h with
  | read h => exact mem_opcodeMap_read _ h
  | write h hw => exact mem_opcodeMap_write _ h _ hw
  | muxset => decide
  | muxclr => decide
  | back h wr => exact mem_opcodeMap_back _ wr h
  | front h => exact mem_opcodeMap_front _ h


/-! ### The decoder follows the rows -/

/-- The transaction `t` matches the row `x`, which makes the instruction `i` of it. -/
def RowGives (x : OpcodeRow) (t : Transaction) (i : Instr) : Prop :=
  ∃ mk, RowMeans x mk ∧ x.hits t = true ∧ mk (offField t) (dataField t) = i

/-- What a row gives is what the decoder reads. -/
theorem RowGives.decode {x : OpcodeRow} {t : Transaction} {i : Instr} (h : RowGives x t i) : decode t = .ok i := by
  obtain ⟨mk, hmeans, hhits, rfl⟩ := h
  cases hmeans with
  | read hr =>
    obtain ⟨hsz, hwr, hoff⟩ := readRow_hits.mp hhits
    rw [decode_of_register hsz (hoff ▸ window_of_mem _ hr), hwr, hoff, decodeReg_read hr]
  | write hr hw =>
    obtain ⟨hsz, hwr, hoff⟩ := writeRow_hits.mp hhits
    rw [decode_of_register hsz (hoff ▸ window_of_mem _ hr), hwr, hoff, decodeReg_write hr hw]
  | muxset =>
    obtain ⟨hsz, hwr, hhigh, hlow⟩ := muxRow_hits.mp hhits
    rw [decode_of_register hsz (window_of_high hhigh), hwr, decodeReg_muxset hhigh hlow]
  | muxclr =>
    obtain ⟨hsz, hwr, hhigh, hlow⟩ := muxRow_hits.mp hhits
    rw [decode_of_register hsz (window_of_high hhigh), hwr, decodeReg_muxclr hhigh hlow]
  | back hne wr =>
    obtain ⟨rfl, rfl, hwin, hal⟩ := windowRow_hits.mp hhits
    rw [decode_of_back hne hwin, decodeBack_eq, if_pos hal]
  | front hne =>
    obtain ⟨rfl, hwr, hwin, hal⟩ := windowRow_hits.mp hhits
    rw [decode_of_front hne hwin, decodeFront_eq, hwr, if_neg Bool.false_ne_true, if_pos hal]

/-- A register access that decodes matches a row. -/
theorem exists_rowGives_of_decodeReg {t : Transaction} {i : Instr} (hsz : sizeField t = 2#2)
    (h : decodeReg (isWrite t) (offField t) (dataField t) = .ok i) : ∃ x, RowGives x t i := by
  unfold decodeReg at h
  split at h
  · cases h
  next hlow =>
  rw [not_not] at hlow
  split at h
  next hhigh =>
    cases hwr : isWrite t <;> rw [hwr] at h <;> cases h
    exact ⟨_, _, .muxset, muxRow_hits.mpr ⟨hsz, hwr, hhigh, hlow⟩, rfl⟩
  split at h
  next hhigh =>
    cases hwr : isWrite t <;> rw [hwr] at h <;> cases h
    exact ⟨_, _, .muxclr, muxRow_hits.mpr ⟨hsz, hwr, hhigh, hlow⟩, rfl⟩
  split at h
  · cases h
  next r hfind =>
  have hr : r ∈ regMap := List.mem_of_find?_eq_some hfind
  have hoff : offField t = r.offset := (beq_iff_eq.mp (List.find?_some hfind :)).symm
  split at h
  next hwr =>
    split at h <;> cases h
    next mk hw => exact ⟨_, _, .write hr hw, writeRow_hits.mpr ⟨hsz, hwr, hoff⟩, rfl⟩
  next hwr =>
    cases h
    exact ⟨_, _, .read hr, readRow_hits.mpr ⟨hsz, Bool.eq_false_of_not_eq_true hwr, hoff⟩, rfl⟩

/-- A transaction that decodes matches a row that gives its instruction. -/
theorem exists_rowGives_of_decode {t : Transaction} {i : Instr} (h : decode t = .ok i) : ∃ x, RowGives x t i := by
  unfold decode at h
  split at h
  · cases h
  next hne =>
  split at h
  · split at h
    next hsz => exact exists_rowGives_of_decodeReg hsz h
    · cases h
  split at h
  next hwin =>
    rw [decodeBack_eq] at h
    split at h <;> cases h
    next hal => exact ⟨_, _, .back hne _, windowRow_hits.mpr ⟨rfl, rfl, hwin, hal⟩, rfl⟩
  split at h
  next hwin =>
    rw [decodeFront_eq] at h
    split at h
    · cases h
    next hwr =>
    split at h <;> cases h
    next hal =>
      exact ⟨_, _, .front hne, windowRow_hits.mpr ⟨rfl, Bool.eq_false_of_not_eq_true hwr, hwin, hal⟩, rfl⟩
  · cases h

/-! ### The opcode map and the encoder follow the rows -/

theorem size_cases : ∀ sz : BitVec 2, sz ≠ 3#2 → sz = 0#2 ∨ sz = 1#2 ∨ sz = 2#2 := by decide

section
variable {sz : BitVec 2} (h : sz ≠ 3#2) (wr : Bool) (i : BitVec 12) (data : Word)
include h

theorem mnemonic_backInstr : (backInstr sz wr i data).mnemonic = (backInstr sz wr 0#12 0#32).mnemonic := by
  obtain rfl | rfl | rfl := size_cases sz h <;> cases wr <;> rfl

theorem mnemonic_frontInstr : (frontInstr sz i).mnemonic = (frontInstr sz 0#12).mnemonic := by
  obtain rfl | rfl | rfl := size_cases sz h <;> rfl

theorem wellFormed_backInstr : (backInstr sz wr i data).wellFormed = sizeAligned sz i := by
  obtain rfl | rfl | rfl := size_cases sz h <;> cases wr <;> rfl

theorem wellFormed_frontInstr : (frontInstr sz i).wellFormed = sizeAligned sz i := by
  obtain rfl | rfl | rfl := size_cases sz h <;> rfl

theorem encode_backInstr :
    encode (backInstr sz wr i data) = assemble sz wr (1#3 ++ i) (if wr then data else 0#32) := by
  obtain rfl | rfl | rfl := size_cases sz h <;> cases wr <;> rfl

theorem encode_frontInstr : encode (frontInstr sz i) = assemble sz false (2#3 ++ i) 0#32 := by
  obtain rfl | rfl | rfl := size_cases sz h <;> rfl

end

/-- The encoder knows the map's registers that are read. -/
theorem encode_read {r : RegRow} (h : r ∈ regMap) : encode r.rd = encodeRegRead r.offset ∧ r.rd.wellFormed = true := by
  fin_cases h <;> exact ⟨rfl, rfl⟩

/-- The encoder knows the map's registers that are written. -/
theorem encode_write {r : RegRow} {mk : Word → Instr} (h : r ∈ regMap) (hw : r.wr = some mk) (data : Word) :
    encode (mk data) = encodeRegWrite r.offset data ∧ (mk data).wellFormed = true
      ∧ (mk data).mnemonic = (mk 0#32).mnemonic := by
  fin_cases h <;> cases hw <;> exact ⟨rfl, rfl, rfl⟩

section
variable {x : OpcodeRow} {t : Transaction} {i : Instr}

/-- The instruction a row gives is that row's. -/
theorem RowGives.mnemonic (h : RowGives x t i) : i.mnemonic = x.mnemonic := by
  obtain ⟨mk, hmeans, -, rfl⟩ := h
  cases hmeans with
  | read hr => rfl
  | write hr hw => exact (encode_write hr hw _).2.2
  | muxset => rfl
  | muxclr => rfl
  | back hne wr => exact mnemonic_backInstr hne wr _ _
  | front hne => exact mnemonic_frontInstr hne _

/-- A row gives aligned accesses only. -/
theorem RowGives.wellFormed (h : RowGives x t i) : i.wellFormed = true := by
  obtain ⟨mk, hmeans, hhits, rfl⟩ := h
  cases hmeans with
  | read hr => exact (encode_read hr).2
  | write hr hw => exact (encode_write hr hw _).2.1
  | muxset => rfl
  | muxclr => rfl
  | back hne wr =>
    obtain ⟨-, -, -, hal⟩ := windowRow_hits.mp hhits
    exact (wellFormed_backInstr hne wr _ _).trans hal
  | front hne =>
    obtain ⟨-, -, -, hal⟩ := windowRow_hits.mp hhits
    exact (wellFormed_frontInstr hne _).trans hal

/-- The encoder gives back the fields of the transaction, but for the `DATA` of a read. -/
theorem RowGives.encode (h : RowGives x t i) :
    encode i = assemble (sizeField t) (isWrite t) (offField t) (if isWrite t then dataField t else 0#32) := by
  obtain ⟨mk, hmeans, hhits, rfl⟩ := h
  cases hmeans with
  | read hr =>
    obtain ⟨hsz, hwr, hoff⟩ := readRow_hits.mp hhits
    rw [hsz, hwr, hoff]
    exact (encode_read hr).1
  | write hr hw =>
    obtain ⟨hsz, hwr, hoff⟩ := writeRow_hits.mp hhits
    rw [hsz, hwr, hoff]
    exact (encode_write hr hw _).1
  | muxset =>
    obtain ⟨hsz, hwr, hhigh, hlow⟩ := muxRow_hits.mp hhits
    conv_rhs => rw [hsz, hwr, ← entry_append (offField t), hhigh, hlow]
    rfl
  | muxclr =>
    obtain ⟨hsz, hwr, hhigh, hlow⟩ := muxRow_hits.mp hhits
    conv_rhs => rw [hsz, hwr, ← entry_append (offField t), hhigh, hlow]
    rfl
  | back hne wr =>
    obtain ⟨rfl, rfl, hwin, -⟩ := windowRow_hits.mp hhits
    rw [encode_backInstr hne, ← hwin, window_append_index]
  | front hne =>
    obtain ⟨rfl, hwr, hwin, -⟩ := windowRow_hits.mp hhits
    rw [encode_frontInstr hne, hwr, ← hwin, window_append_index]
    rfl

end

/-- Settles O3: a transaction that decodes matches a row, and the encoder gives back what a row gives. -/
theorem encodeOfDecode : Obligations.EncodeOfDecode := by
  intro t i h
  obtain ⟨x, hx⟩ := exists_rowGives_of_decode h
  rw [hx.encode, and_headerMask]
  cases hwr : isWrite t with
  | false => rfl
  | true => rw [if_pos rfl, if_pos rfl, ← hwr, assemble_fields]

/-- No two rows of the opcode map have the same mnemonic. -/
theorem opcodeMap_mnemonic_nodup : (opcodeMap.map fun x => x.mnemonic).Nodup := by decide

/-- A row of the opcode map that matches gives the instruction the decoder reads. -/
theorem exists_rowGives_of_hits {x : OpcodeRow} {t : Transaction} (h : x ∈ opcodeMap) (hhits : x.hits t = true) :
    ∃ i, RowGives x t i := by
  obtain ⟨mk, hmeans⟩ := exists_rowMeans h
  exact ⟨_, mk, hmeans, hhits, rfl⟩

/-- The rows that match a transaction one row gives an instruction of: that row alone (30_encoding.md R154). -/
theorem RowGives.filter_hits {x : OpcodeRow} {t : Transaction} {i : Instr} (h : RowGives x t i) :
    opcodeMap.filter (fun y => y.hits t) = [x] := by
  have hmem : x ∈ opcodeMap := by obtain ⟨mk, hmeans, -⟩ := h; exact hmeans.mem_opcodeMap
  have hunique : ∀ y ∈ opcodeMap, y.hits t = decide (y = x) := by
    intro y hy
    rw [Bool.eq_iff_iff, decide_eq_true_eq]
    refine ⟨fun hhits => ?_, ?_⟩
    · obtain ⟨j, hj⟩ := exists_rowGives_of_hits hy hhits
      obtain rfl : j = i := Except.ok.inj (hj.decode.symm.trans h.decode)
      exact List.inj_on_of_nodup_map opcodeMap_mnemonic_nodup hy hmem (hj.mnemonic.symm.trans h.mnemonic)
    · rintro rfl
      obtain ⟨mk, -, hhits, -⟩ := h
      exact hhits
  rw [List.filter_congr hunique, List.filter_eq, List.count_eq_one_of_mem (.of_map _ opcodeMap_mnemonic_nodup) hmem]
  rfl

/-- Settles O2: a transaction decodes exactly when a row matches it, and two rows that match would give one instruction, so
one mnemonic. -/
theorem decodeFollowsOpcodeMap : Obligations.DecodeFollowsOpcodeMap := by
  intro t
  split
  next i h =>
    obtain ⟨x, hx⟩ := exists_rowGives_of_decode h
    rw [hx.filter_hits, hx.mnemonic]
    exact ⟨rfl, hx.wellFormed⟩
  next e h =>
    refine List.filter_eq_nil_iff.mpr fun x hx hhits => ?_
    obtain ⟨i, hi⟩ := exists_rowGives_of_hits hx hhits
    cases h.symm.trans hi.decode

/-- Settles O4: each word written out, decoded. -/
theorem knownTransactionsDecode : Obligations.KnownTransactionsDecode := by
  unfold Obligations.KnownTransactionsDecode
  decide

end Sys2Proof
end

section
/-! SUPPORT. The host's turn (30_encoding.md R154, R160, R161) and its scripts (R170 to R173): what the turn does with the next
transaction, what the pseudo-instructions issue, and the one bit `setpix` writes. -/

namespace Sys2Proof.Machine

/-! ### The host's turn -/

/-- Between bursts the host's turn performs a transaction that decodes. -/
theorem takeTurn_host_of_ok {s : State} {w : Transaction} {q : List Transaction} {i : Instr} (hb : s.busy = false)
    (hq : s.hostq = w :: q) (hd : decode w = .ok i) : takeTurn (.agent .host) s = exec i { s with hostq := q } := by
  simp only [takeTurn, enabled, agentStep, hostStep, hb, hq, hd]
  rfl

/-- Between bursts the host's turn refuses a transaction that does not. -/
theorem takeTurn_host_of_error {s : State} {w : Transaction} {q : List Transaction} {e : DecodeError}
    (hb : s.busy = false) (hq : s.hostq = w :: q) (hd : decode w = .error e) :
    takeTurn (.agent .host) s = .next (refuseTransaction (isWrite w) { s with hostq := q }) := by
  simp only [takeTurn, enabled, agentStep, hostStep, hb, hq, hd]
  rfl

/-- Every field a refused transaction sets (30_encoding.md R160). -/
theorem refuseTransaction_eq (wr : Bool) (s : State) :
    refuseTransaction wr s = { s with berr := true, rdata := if wr then none else some 0#32 } := by
  cases wr <;> rfl

/-- Settles O7: the host's turn refuses the transaction. -/
theorem illegalTransactionSetsOnlyBerr : Obligations.IllegalTransactionSetsOnlyBerr := by
  intro s w q e hb hq hd
  rw [takeTurn_host_of_error hb hq hd, refuseTransaction_eq]

/-- A table word that names an instruction is a transaction that decodes to it. -/
theorem decode_of_decodeTableWord {nbits w : Nat} {i : Instr} (h : decodeTableWord nbits w = some i) :
    decode (BitVec.ofNat 50 (w % 2 ^ nbits)) = .ok i := by
  unfold decodeTableWord at h
  cases hd : decode (BitVec.ofNat 50 (w % 2 ^ nbits)) with
  | error e => rw [hd] at h; cases h
  | ok j => rw [hd] at h; cases h; rfl

/-- Settles O6: the step takes the host's turn, which performs its next transaction; a word laid down is that one. -/
theorem stepRunsDecodedTransaction : Obligations.StepRunsDecodedTransaction := by
  refine ⟨fun s rest w q i hturns hb hq hd => ?_, fun s nbits w i h => ?_⟩
  · rw [step_of_turns_cons hturns]
    exact takeTurn_host_of_ok hb hq hd
  · have hstep : step (s.withFetchWord nbits w) = _ := step_of_turns_cons rfl
    rw [hstep]
    exact takeTurn_host_of_ok rfl rfl (decode_of_decodeTableWord h)

/-! ### The pseudo-instructions -/

/-- The transactions a pseudo-instruction's lines issue while no response is bound, its polling read taken once. -/
def issued (p : Pseudo) : List Transaction := (expandPseudo p).filterMap (lineTransaction [])

/-- Lines that issue encodings of well-formed instructions decode to them. -/
theorem decode_issued {p : Pseudo} {ops : List Instr} (h : issued p = ops.map encode)
    (hwf : ops.all Instr.wellFormed = true) : (issued p).map decode = ops.map .ok := by
  rw [h, List.map_map]
  exact List.map_congr_left fun i hi => decodeOfEncode i (List.all_eq_true.mp hwf i hi)

/-- Settles O58: each line issues the encoding of its source operation, which decodes to it. -/
theorem pseudoInstructionsExpand : Obligations.PseudoInstructionsExpand := by
  intro b loop
  refine ⟨?start, ?start1, ?stop, ?setbright, ?setscan, ?swap, ?swapcopy, ?clrerr, ?waitswap⟩
  case start => exact decode_issued (p := .start) (ops := [.wrCtrl 3#32]) rfl rfl
  case start1 => exact decode_issued (p := .start1) (ops := [.wrCtrl 1#32]) rfl rfl
  case stop => exact decode_issued (p := .stop) (ops := [.wrCtrl 2#32]) rfl rfl
  case setbright => exact decode_issued (p := .setbright b) (ops := [.wrBright b]) rfl rfl
  case setscan => exact decode_issued (p := .setscan b) (ops := [.wrScanUs b]) rfl rfl
  case swap => exact decode_issued (p := .swap loop) (ops := [.wrSwap 1#32, .rdStatus]) rfl rfl
  case swapcopy => exact decode_issued (p := .swapcopy loop) (ops := [.wrSwap 3#32, .rdStatus]) rfl rfl
  case clrerr => exact decode_issued (p := .clrerr) (ops := [.wrStatus 0xC0#32]) rfl rfl
  case waitswap => exact decode_issued (p := .waitswap loop) (ops := [.rdStatus]) rfl rfl

/-! ### The place of a pixel -/

/-- In a valid configuration the bytes of a row are those of its panels' line groups (00_scope.md R12). -/
theorem rowBytes_eq {s : State} (h : cfgValid s = true) :
    rowBytes s = numPanels s * groupLines s * (s.pw.toNat / 8) := by
  obtain ⟨-, hpw, -, -, hn, -, -, hph, -⟩ := (cfgValid_iff s).mp h
  obtain ⟨w, hw⟩ := Nat.dvd_of_mod_eq_zero hpw
  obtain ⟨g, hg⟩ := Nat.dvd_of_mod_eq_zero hph
  have hframe : numPanels s * (8 * w) * (s.nrows.toNat * g) = 8 * (s.nrows.toNat * (numPanels s * g * w)) := by ring
  rw [rowBytes, frameBytes, groupLines, hw, hg, hframe, Nat.mul_div_cancel_left _ (by omega), Nat.mul_div_cancel_left _ hn,
    Nat.mul_div_cancel_left _ hn, Nat.mul_div_cancel_left _ (by omega)]

/-- A panel's pixel lies in the frame (42_buffer_access.md R300, R303). -/
theorem pixAddrPanel_byte_lt {s : State} (h : cfgValid s = true) {p x y : Nat} (hp : p < numPanels s) (hx : x < s.pw.toNat)
    (hy : y < s.ph.toNat) : (pixAddrPanel s p x y).byte < frameBytes s := by
  obtain ⟨-, hpw, -, -, hn, -, -, hph, -⟩ := (cfgValid_iff s).mp h
  have hgroup : y / s.nrows.toNat < groupLines s := by
    refine Nat.div_lt_of_lt_mul ?_
    rwa [groupLines, Nat.mul_div_cancel' (Nat.dvd_of_mod_eq_zero hph)]
  have hcolumn : x / 8 < s.pw.toNat / 8 := by omega
  have hrow := rows_fit (s := s) (y % s.nrows.toNat) (Nat.mod_lt _ hn)
  have hin := Nat.mul_add_lt_mul_of_lt_of_lt (Nat.mul_add_lt_mul_of_lt_of_lt hp hgroup) hcolumn
  rw [← rowBytes_eq h, Nat.mul_comm (s.pw.toNat / 8), Nat.mul_comm (groupLines s)] at hin
  simp only [pixAddrPanel]
  omega

/-- A display pixel lies in the frame (42_buffer_access.md R301, R303). -/
theorem pixAddr_byte_lt {s : State} (h : cfgValid s = true) {x y : Nat} (hd : onDisplay s x y = true) :
    (pixAddr s x y).byte < frameBytes s := by
  obtain ⟨hpw, -, -, -, -, -, hph, -⟩ := (cfgValid_iff s).mp h
  simp only [onDisplay, Bool.and_eq_true, decide_eq_true_eq] at hd
  obtain ⟨hx, hy⟩ := hd
  have hpx : x / s.pw.toNat < s.nx.toNat := Nat.div_lt_of_lt_mul (by rwa [Nat.mul_comm])
  have hpy : y / s.ph.toNat < s.ny.toNat := Nat.div_lt_of_lt_mul (by rwa [Nat.mul_comm])
  have hp := Nat.mul_add_lt_mul_of_lt_of_lt hpy hpx
  rw [Nat.mul_comm s.nx.toNat, Nat.mul_comm s.ny.toNat] at hp
  exact pixAddrPanel_byte_lt h hp (Nat.mod_lt _ (by omega)) (Nat.mod_lt _ hph)

theorem pixAddr_bit_lt (s : State) (x y : Nat) : (pixAddr s x y).bit < 8 := by
  simp only [pixAddr, pixAddrPanel]
  omega

/-! ### The transactions of `setpix` -/

/-- A transaction issued between bursts is performed at once, and the host's queue is as it was. -/
theorem issue_of_exec {s u : State} {w : Transaction} {i : Instr} (hb : s.busy = false) (hd : decode w = .ok i)
    (hexec : exec i s = .next u) : issue w s = u := by
  have hturn : takeTurn (.agent .host) { s with hostq := w :: s.hostq } = exec i s := takeTurn_host_of_ok hb rfl hd
  exact Host.Outcome.next.inj ((takeTurn_eq_afterTurn _ _).symm.trans (hturn.trans hexec))

/-- A BACK offset below 4096 is an index in the window. -/
theorem locOffset_back {o : Nat} (h : o < 4096) : locOffset (.back o) = 1#3 ++ BitVec.ofNat 12 o := by
  refine BitVec.eq_of_toNat_eq ?_
  simp only [locOffset, BitVec.toNat_append, BitVec.toNat_ofNat]
  rw [← Nat.shiftLeft_add_eq_or_of_lt (Nat.mod_lt _ (by omega)), Nat.shiftLeft_eq]
  omega

/-- `setpix` on a word: bit `b` takes the colour `c`. -/
def paint (b : Nat) (c : Bool) (v : Word) : Word := if c then v ||| 1#32 <<< b else v &&& ~~~(1#32 <<< b)

/-- Painting changes the pixel's bit alone. -/
theorem getLsbD_paint {b j : Nat} (hb : b < 8) (hj : j < 32) (c : Bool) (v : Word) :
    (paint b c v).getLsbD j = if b = j then c else v.getLsbD j := by
  have hone : (1#32 <<< b).getLsbD j = decide (b = j) := by
    rw [← BitVec.twoPow_eq, BitVec.getLsbD_twoPow, decide_eq_true (by omega : b < 32), Bool.true_and]
  cases c with
  | false =>
    rw [paint, if_neg Bool.false_ne_true, BitVec.getLsbD_and, BitVec.getLsbD_not, hone]
    by_cases h : b = j <;> simp [h, hj]
  | true =>
    rw [paint, if_pos rfl, BitVec.getLsbD_or, hone]
    by_cases h : b = j <;> simp [h]

/-- The byte written differs from the byte read in the pixel's bit alone. -/
theorem getLsbD_paintedByte {b : Nat} (hb : b < 8) (c : Bool) (x : Byte) (j : Nat) :
    ((paint b c (x.setWidth 32)).extractLsb' 0 8).getLsbD j = if b = j then c else x.getLsbD j := by
  by_cases hj : j < 8
  · rw [BitVec.getLsbD_extractLsb', Nat.zero_add, getLsbD_paint hb (by omega), BitVec.getLsbD_setWidth, decide_eq_true hj,
      decide_eq_true (by omega : j < 32), Bool.true_and, Bool.true_and]
  · rw [BitVec.getLsbD_of_ge _ _ (by omega), if_neg (by omega), BitVec.getLsbD_of_ge x j (by omega)]

/-- The read of `setpix` answers the byte and changes nothing else. -/
theorem issue_rd8Back {s : State} (hb : s.busy = false) {o : Nat} (ho : o < 4096) :
    issue (assemble 0#2 false (locOffset (.back o)) 0#32) s = respond ((bufRead (bslot s) o s).setWidth 32) s := by
  have hindex : (BitVec.ofNat 12 o).toNat = o := Nat.mod_eq_of_lt ho
  obtain ⟨hread, -⟩ := bufferReadsLittleEndian s (BitVec.ofNat 12 o)
  rw [hindex] at hread
  rw [locOffset_back ho]
  exact issue_of_exec hb (decodeOfEncode (.rd8Back (BitVec.ofNat 12 o)) rfl) hread

/-- The write of `setpix` stores the low byte of its datum and leaves every other byte. -/
theorem bufRead_issue_wr8Back {s : State} (hwf : Memory.wf s.store = true) (hb : s.busy = false) {o : Nat} (ho : o < 4096)
    (v : Word) (k : Fin 2) (i : Nat) : bufRead k i (issue (assemble 0#2 true (locOffset (.back o)) v) s)
      = if k = bslot s ∧ i = o then v.extractLsb' 0 8 else bufRead k i s := by
  have hindex : (BitVec.ofNat 12 o).toNat = o := Nat.mod_eq_of_lt ho
  obtain ⟨t, hexec, -, hstored, hkept⟩ :=
    bufferWritesStoreBytes s (BitVec.ofNat 12 o) v hwf 1 _ (.inl ⟨rfl, rfl⟩)
  rw [hindex] at hstored hkept
  have hissue : issue (assemble 0#2 true (locOffset (.back o)) v) s = t := by
    rw [locOffset_back ho]
    exact issue_of_exec hb (decodeOfEncode (.wr8Back (BitVec.ofNat 12 o) v) rfl) hexec
  rw [hissue]
  split_ifs with h
  · obtain ⟨rfl, rfl⟩ := h
    exact hstored 0 (by omega)
  · exact hkept k i (by omega)

/-- The run of `setpix` on a pixel of the display: its byte is read, painted and written back. -/
theorem runScript_setpix {s : State} (hb : s.busy = false) {x y : Nat} (c : Bool) (env : Bindings)
    (hd : onDisplay s x y = true) (ho : (pixAddr s x y).byte < 4096) :
    let v := (bufRead (bslot s) (pixAddr s x y).byte s).setWidth 32
    (runScript (setpixLines s x y c) 2 { rest := setpixLines s x y c, env := env, block := s }).block
      = issue (assemble 0#2 true (locOffset (.back (pixAddr s x y).byte)) (paint (pixAddr s x y).bit c v)) (respond v s) := by
  simp only [setpixLines, if_pos hd, runScript, List.isEmpty_cons, Bool.false_eq_true, if_false, runLine,
    widthCode, issue_rd8Back hb ho]
  cases c <;> simp [evalHostExpr, paint]

/-- The bytes after `setpix` on a pixel of the display. -/
theorem bufRead_setpix {s : State} (hwf : Memory.wf s.store = true) (hb : s.busy = false) {x y : Nat} (c : Bool)
    (env : Bindings) (hd : onDisplay s x y = true) (ho : (pixAddr s x y).byte < 4096) (k : Fin 2) (i : Nat) :
    bufRead k i (runScript (setpixLines s x y c) 2 { rest := setpixLines s x y c, env := env, block := s }).block
      = if k = bslot s ∧ i = (pixAddr s x y).byte then
          (paint (pixAddr s x y).bit c ((bufRead (bslot s) (pixAddr s x y).byte s).setWidth 32)).extractLsb' 0 8
        else bufRead k i s := by
  rw [runScript_setpix hb c env hd ho]
  exact bufRead_issue_wr8Back (s := respond _ s) hwf hb ho _ k i

/-- Settles O57: the byte at the pixel's place is read, painted and written back; off the display there are no lines. -/
theorem setpixWritesOneBit : Obligations.SetpixWritesOneBit := by
  intro s x y c env hwf hb hc
  refine ⟨fun hoff => ?off, fun hd => ?on⟩
  case off => simp [setpixLines, hoff, runScript]
  case on =>
    obtain ⟨-, -, -, -, -, -, -, -, hframe, -⟩ := (cfgValid_iff s).mp hc
    have hbyte := bufRead_setpix hwf hb c env hd (lt_of_lt_of_le (pixAddr_byte_lt hc hd) hframe)
    have hbit := pixAddr_bit_lt s x y
    refine ⟨?painted, fun k i b hne => ?kept⟩
    case painted => rw [hbyte, if_pos ⟨rfl, rfl⟩, getLsbD_paintedByte hbit, if_pos rfl]
    case kept =>
      rw [hbyte]
      split_ifs with h
      · obtain ⟨rfl, rfl⟩ := h
        rw [getLsbD_paintedByte hbit, if_neg fun hb => hne ⟨rfl, rfl, hb.symm⟩]
      · rfl

end Sys2Proof.Machine
end

section
/-! SUPPORT. The host registers (40_host_registers.md): the words a read assembles from fields, what each write stores, and
the `SWAP` and `CTRL` writes case by case. -/

namespace Sys2Proof.Machine

/-! ### Words assembled from fields -/

/-- The word with the field `f` from bit `k` up and 0 elsewhere (40_host_registers.md R200). -/
def fieldAt {n : Nat} (k : Nat) (f : BitVec n) : Word := f.setWidth 32 <<< k

theorem setWidth_eq_fieldAt {n : Nat} (f : BitVec n) : f.setWidth 32 = fieldAt 0 f := (BitVec.shiftLeft_zero _).symm

/-- A number placed in a word is a field of any width that holds it. -/
theorem ofNat_shiftLeft_eq_fieldAt {x n : Nat} (h : x < 2 ^ n) (k : Nat) :
    BitVec.ofNat 32 x <<< k = fieldAt k (BitVec.ofNat n x) := by
  rw [fieldAt, ← BitVec.ofNat_toNat, BitVec.toNat_ofNat, Nat.mod_eq_of_lt h]

theorem getLsbD_fieldAt {n : Nat} (k j : Nat) (f : BitVec n) :
    (fieldAt k f).getLsbD j = (decide (j < 32) && decide (k ≤ j) && f.getLsbD (j - k)) := by
  have hle : (!decide (j < k)) = decide (k ≤ j) := by rw [← decide_not, decide_eq_decide, Nat.not_lt]
  rw [fieldAt, BitVec.getLsbD_shiftLeft, BitVec.getLsbD_setWidth, hle]
  by_cases hj : j < 32
  · rw [decide_eq_true (by omega : j - k < 32), Bool.true_and]
  · simp [hj]

theorem getElem_fieldAt {n : Nat} (k j : Nat) (f : BitVec n) (hj : j < 32) :
    (fieldAt k f)[j] = (decide (k ≤ j) && f.getLsbD (j - k)) := by
  rw [← BitVec.getLsbD_eq_getElem, getLsbD_fieldAt, decide_eq_true hj, Bool.true_and]

/-- A field is read back at its place. -/
theorem extractLsb'_fieldAt_same {n k : Nat} (f : BitVec n) (h : k + n ≤ 32) : (fieldAt k f).extractLsb' k n = f := by
  refine BitVec.eq_of_getLsbD_eq fun j hj => ?_
  have hlt : k + j < 32 := by omega
  rw [BitVec.getLsbD_extractLsb', getLsbD_fieldAt, Nat.add_sub_cancel_left]
  simp [hj, hlt]

/-- Bits beside a field are 0 (R162). -/
theorem extractLsb'_fieldAt_disjoint {n k p m : Nat} (f : BitVec n) (h : p + m ≤ k ∨ k + n ≤ p) :
    (fieldAt k f).extractLsb' p m = 0#m := by
  refine BitVec.eq_of_getLsbD_eq fun j hj => ?_
  rw [BitVec.getLsbD_extractLsb', getLsbD_fieldAt, BitVec.getLsbD_zero]
  rcases h with h | h
  · have hlt : ¬k ≤ p + j := by omega
    simp [hlt]
  · rw [BitVec.getLsbD_of_ge f (p + j - k) (by omega), Bool.and_false, Bool.and_false]

/-- Two fields side by side. -/
theorem fieldAt_append {v w : Nat} (k : Nat) (x : BitVec v) (y : BitVec w) :
    fieldAt k (x ++ y) = fieldAt (k + w) x ||| fieldAt k y := by
  refine BitVec.eq_of_getLsbD_eq fun j hj => ?_
  simp only [BitVec.getLsbD_or, getLsbD_fieldAt, BitVec.getLsbD_append, decide_eq_true hj, Bool.true_and]
  rcases Nat.lt_or_ge (j - k) w with h | h
  · have hlow : ¬k + w ≤ j := by omega
    rw [if_pos h, decide_eq_false hlow, Bool.false_and, Bool.false_or]
  · have hhigh : k ≤ j ↔ k + w ≤ j := by omega
    rw [if_neg (by omega), BitVec.getLsbD_of_ge y _ h, Bool.and_false, Bool.or_false, Nat.sub_add_eq,
      decide_eq_decide.mpr hhigh]

/-- A field of zeros leaves the word 0 (reserved bits, R162). -/
theorem fieldAt_zero (k n : Nat) : fieldAt k (0#n) = 0#32 := by simp [fieldAt]

/-! ### The register words as their fields -/

/-- `ID` (40_host_registers.md R201). -/
theorem idWord_eq (s : State) : idWord s = fieldAt 16 32#8 ||| fieldAt 8 (BitVec.ofNat 8 s.par.timerWidth)
    ||| fieldAt 0 (BitVec.ofBool (s.par.backend == .pio)) := by
  have h : idWord s = fieldAt 0 (0#8 ++ 32#8 ++ BitVec.ofNat 8 s.par.timerWidth ++ 0#7
      ++ BitVec.ofBool (s.par.backend == .pio)) := (BitVec.setWidth_eq _).symm.trans (setWidth_eq_fieldAt _)
  simp only [h, fieldAt_append, fieldAt_zero, BitVec.zero_or, BitVec.or_zero, Nat.zero_add]

/-- `CTRL` (R202). -/
theorem ctrlWord_eq (s : State) : ctrlWord s = fieldAt 1 (BitVec.ofBool s.db) ||| fieldAt 0 (BitVec.ofBool s.run) := by
  have h : ctrlWord s = fieldAt 0 (0#30 ++ BitVec.ofBool s.db ++ BitVec.ofBool s.run) :=
    (BitVec.setWidth_eq _).symm.trans (setWidth_eq_fieldAt _)
  simp only [h, fieldAt_append, fieldAt_zero, BitVec.zero_or, Nat.zero_add]

/-- `STATUS`, the row in five bits (R204). -/
theorem statusWord_eq {s : State} (h : s.row < 32) : statusWord s =
    fieldAt 0 (BitVec.ofBool s.run) ||| fieldAt 1 (BitVec.ofBool s.swapReq) ||| fieldAt 2 (BitVec.ofBool s.copyBusy)
      ||| fieldAt 3 (BitVec.ofNat 1 (fslot s).val) ||| fieldAt 4 (BitVec.ofNat 2 s.phase.val)
      ||| fieldAt 6 (BitVec.ofBool s.cfgerr) ||| fieldAt 7 (BitVec.ofBool s.berr)
      ||| fieldAt 8 (BitVec.ofNat 5 s.row) ||| fieldAt 13 (BitVec.ofBool s.reloadPending) := by
  rw [statusWord, ofNat_shiftLeft_eq_fieldAt (n := 1) (fslot s).isLt, ofNat_shiftLeft_eq_fieldAt (n := 2) s.phase.isLt,
    ofNat_shiftLeft_eq_fieldAt (n := 5) h]
  rfl

/-- `GEOM0` (R214). -/
theorem geom0Word_eq (s : State) :
    geom0Word s = fieldAt 20 s.ny ||| fieldAt 16 s.nx ||| fieldAt 8 s.ph ||| fieldAt 0 s.pw := by
  have h : geom0Word s = fieldAt 0 (0#8 ++ s.ny ++ s.nx ++ s.ph ++ s.pw) :=
    (BitVec.setWidth_eq _).symm.trans (setWidth_eq_fieldAt _)
  simp only [h, fieldAt_append, fieldAt_zero, BitVec.zero_or, Nat.zero_add]

/-- `GEOM1` (R216). -/
theorem geom1Word_eq (s : State) : geom1Word s = fieldAt 0 s.nrows ||| fieldAt 8 s.muxcnt := by
  rw [geom1Word, setWidth_eq_fieldAt s.nrows]
  rfl

/-- `POL` (R218). -/
theorem polWord_eq (s : State) : polWord s = fieldAt 0 (BitVec.ofBool s.selLvl) ||| fieldAt 1 (BitVec.ofBool s.dataInv)
    ||| fieldAt 2 (BitVec.ofBool s.oeLow) := rfl

/-! ### Register reads -/

/-- The bits of `ID` (40_host_registers.md R201). -/
theorem idWord_fields (s : State) :
    (idWord s).getLsbD 0 = (s.par.backend == .pio) ∧ (idWord s).extractLsb' 1 7 = 0#7
      ∧ (idWord s).extractLsb' 8 8 = BitVec.ofNat 8 s.par.timerWidth ∧ (idWord s).extractLsb' 16 8 = 32#8
      ∧ (idWord s).extractLsb' 24 8 = 0#8 := by
  simp [idWord_eq, BitVec.extractLsb'_or, getElem_fieldAt, extractLsb'_fieldAt_same, extractLsb'_fieldAt_disjoint]

/-- The bits of `CTRL` (R202). -/
theorem ctrlWord_fields (s : State) :
    (ctrlWord s).getLsbD 0 = s.run ∧ (ctrlWord s).getLsbD 1 = s.db ∧ (ctrlWord s).extractLsb' 2 30 = 0#30 := by
  simp [ctrlWord_eq, BitVec.extractLsb'_or, getElem_fieldAt, extractLsb'_fieldAt_disjoint]

/-- The bits of `STATUS` (R204). -/
theorem statusWord_fields {s : State} (h : s.row < 32) :
    (statusWord s).getLsbD 0 = s.run ∧ (statusWord s).getLsbD 1 = s.swapReq ∧ (statusWord s).getLsbD 2 = s.copyBusy
      ∧ ((statusWord s).extractLsb' 3 1).toNat = (fslot s).val ∧ ((statusWord s).extractLsb' 4 2).toNat = s.phase.val
      ∧ (statusWord s).getLsbD 6 = s.cfgerr ∧ (statusWord s).getLsbD 7 = s.berr
      ∧ ((statusWord s).extractLsb' 8 5).toNat = s.row
      ∧ (statusWord s).getLsbD 13 = s.reloadPending ∧ (statusWord s).extractLsb' 14 18 = 0#18 := by
  have hrow : s.row % 32 = s.row := Nat.mod_eq_of_lt h
  simp [statusWord_eq h, BitVec.extractLsb'_or, getElem_fieldAt, extractLsb'_fieldAt_same, extractLsb'_fieldAt_disjoint,
    hrow]

/-- Settles O9: each read answers its register's word, whose fields stand at their places. -/
theorem identityControlStatusReads : Obligations.IdentityControlStatusReads := fun s =>
  ⟨⟨idWord s, rfl, idWord_fields s⟩, ⟨ctrlWord s, rfl, ctrlWord_fields s⟩,
    fun h => ⟨statusWord s, rfl, statusWord_fields h⟩⟩

theorem toNat_word_of_lt {n : Nat} (h : n < 2 ^ 32) : (BitVec.ofNat 32 n).toNat = n := Nat.mod_eq_of_lt h

/-- Settles O10: a value below 2^32 is the number of its word. -/
theorem timingAndCounterReads : Obligations.TimingAndCounterReads := fun _ hdiv hperiod honCnt =>
  ⟨rfl, rfl, rfl, rfl, ⟨_, toNat_word_of_lt hdiv, rfl⟩, ⟨_, toNat_word_of_lt hperiod, rfl⟩,
    ⟨_, toNat_word_of_lt honCnt, rfl⟩⟩

/-- The bits of `GEOM0` (R214). -/
theorem geom0Word_fields (s : State) :
    (geom0Word s).extractLsb' 0 8 = s.pw ∧ (geom0Word s).extractLsb' 8 8 = s.ph ∧ (geom0Word s).extractLsb' 16 4 = s.nx
      ∧ (geom0Word s).extractLsb' 20 4 = s.ny ∧ (geom0Word s).extractLsb' 24 8 = 0#8 := by
  simp [geom0Word_eq, BitVec.extractLsb'_or, extractLsb'_fieldAt_same, extractLsb'_fieldAt_disjoint]

/-- The bits of `GEOM1` (R216). -/
theorem geom1Word_fields (s : State) :
    (geom1Word s).extractLsb' 0 6 = s.nrows ∧ (geom1Word s).extractLsb' 6 2 = 0#2
      ∧ (geom1Word s).extractLsb' 8 6 = s.muxcnt ∧ (geom1Word s).extractLsb' 14 18 = 0#18 := by
  simp [geom1Word_eq, BitVec.extractLsb'_or, extractLsb'_fieldAt_same, extractLsb'_fieldAt_disjoint]

/-- The bits of `POL` (R218). -/
theorem polWord_fields (s : State) :
    (polWord s).getLsbD 0 = s.selLvl ∧ (polWord s).getLsbD 1 = s.dataInv ∧ (polWord s).getLsbD 2 = s.oeLow
      ∧ (polWord s).extractLsb' 3 29 = 0#29 := by
  simp [polWord_eq, BitVec.extractLsb'_or, getElem_fieldAt, extractLsb'_fieldAt_disjoint]

/-- The bits of `BRIGHT` (R206). -/
theorem brightWord_fields (b : BitVec 8) :
    (b.setWidth 32).extractLsb' 0 8 = b ∧ (b.setWidth 32).extractLsb' 8 24 = 0#24 := by
  rw [setWidth_eq_fieldAt]
  exact ⟨extractLsb'_fieldAt_same b (by omega), extractLsb'_fieldAt_disjoint b (by omega)⟩

/-- Settles O11: each read answers its register's word, whose fields stand at their places. -/
theorem configurationReads : Obligations.ConfigurationReads := fun s =>
  ⟨⟨_, rfl, brightWord_fields s.bright⟩, rfl, ⟨geom0Word s, rfl, geom0Word_fields s⟩,
    ⟨geom1Word s, rfl, geom1Word_fields s⟩, ⟨polWord s, rfl, polWord_fields s⟩⟩

/-- The entries 0 to 32 are the table's own (10_state.md R44). -/
theorem getElem?_eq_muxEntry (t : MuxTab) {i : Nat} (h : i < 33) : t[i]? = some (muxEntry t i) := by
  simp [muxEntry, h]

/-- Settles O12: a 5-bit index and the index 32 are in the table. -/
theorem muxTableReads : Obligations.MuxTableReads := fun s idx =>
  have hidx : idx.toNat < 33 := by omega
  ⟨⟨_, getElem?_eq_muxEntry s.muxset hidx, rfl⟩, ⟨_, getElem?_eq_muxEntry s.muxset (by omega), rfl⟩,
    ⟨_, getElem?_eq_muxEntry s.muxclr hidx, rfl⟩, ⟨_, getElem?_eq_muxEntry s.muxclr (by omega), rfl⟩⟩

/-! ### Register writes -/

/-- A sticky bit after a write of `w` to it (40_host_registers.md R205). -/
theorem and_not_eq_ite (b w : Bool) : (b && !w) = if w then false else b := by cases w <;> simp

/-- A request that stays or is made (R211). -/
theorem or_eq_ite (b r : Bool) : (b || r) = if r then true else b := by cases r <;> simp

/-- Settles O17: the fields each write stores. -/
theorem plainRegisterWrites : Obligations.PlainRegisterWrites := by
  intro s d
  refine ⟨?status, rfl, ?scanUs⟩
  case status =>
    rw [← and_not_eq_ite, ← and_not_eq_ite]
    rfl
  case scanUs =>
    rw [← or_eq_ite]
    rfl

/-- While stopped a configuration write stores (R215, R217, R219). -/
theorem configure_stopped {s : State} (h : s.run = false) (f : State → State) : configure f s = f s := by
  simp [configure, h]

/-- While running it is a bus error (R551). -/
theorem configure_running {s : State} (h : s.run = true) (f : State → State) : configure f s = raiseBusError s := by
  simp [configure, h]

/-- A transaction that acknowledges `t` leaves `t` with no response. -/
theorem next_acknowledge {t u : State} (h : t = u) :
    (Host.Outcome.next (acknowledge t) : Host.Outcome State Fault Refusal) = .next { u with rdata := none } := by
  rw [h]
  rfl

/-- Settles O18: the three writes are configuration writes. -/
theorem configurationWrites : Obligations.ConfigurationWrites := fun _ _ =>
  ⟨fun h => ⟨next_acknowledge (configure_stopped h _), next_acknowledge (configure_stopped h _),
      next_acknowledge (configure_stopped h _)⟩,
    fun h => ⟨next_acknowledge (configure_running h _), next_acknowledge (configure_running h _),
      next_acknowledge (configure_running h _)⟩⟩

/-! ### `SWAP` writes -/

/-- A swap request with nothing to do (44_swap_arbiter.md R382, R386). -/
theorem requestSwap_noop {req : Bool} {s : State}
    (h : req = false ∨ s.db = false ∨ s.swapReq = true ∨ s.copyBusy = true) (copy : Bool) : requestSwap req copy s = s := by
  rcases h with h | h | h | h <;> simp [requestSwap, h]

/-- While running a request is armed (44_swap_arbiter.md R382). -/
theorem requestSwap_armed {req : Bool} {s : State} (h : req = true) (hdb : s.db = true) (hreq : s.swapReq = false)
    (hcopy : s.copyBusy = false) (hr : s.run = true) (copy : Bool) :
    requestSwap req copy s = { s with swapReq := true, copyReq := copy } := by
  simp [requestSwap, h, hdb, hreq, hcopy, hr]

/-- While stopped a request is performed at once (R383, R386). -/
theorem requestSwap_performed {req : Bool} {s : State} (h : req = true) (hdb : s.db = true) (hreq : s.swapReq = false)
    (hcopy : s.copyBusy = false) (hr : s.run = false) (copy : Bool) :
    requestSwap req copy s = { s with
      front := 1 - s.front, copyReq := false, copyBusy := copy, copyIdx := if copy then 0 else s.copyIdx } := by
  have htaken : requestSwap req copy s = exchange { s with copyReq := copy } := by
    simp [requestSwap, h, hdb, hreq, hcopy, hr]
  rw [htaken]
  simp [exchange, hreq, hcopy]

/-- Settles O19: the request is a no-op, armed or performed. -/
theorem swapRequests : Obligations.SwapRequests := fun _ _ =>
  ⟨fun h => next_acknowledge (requestSwap_noop h _), fun hd hdb hreq hcopy =>
    ⟨fun hr => next_acknowledge (requestSwap_armed hd hdb hreq hcopy hr _),
      fun hr => next_acknowledge (requestSwap_performed hd hdb hreq hcopy hr _)⟩⟩

/-! ### `CTRL` writes -/

/-- The conditions of `ControlEffect` decide what a `CTRL` write does (40_host_registers.md R203): the converse of
`writeControl_effect`. -/
theorem writeControl_of_effect {en db : Bool} {s t : State} (h : ControlEffect en db s t) : writeControl en db s = t := by
  have hstop : (stop s).db = s.db := by rw [stop_eq]
  cases h with
  | refused hd h =>
    rcases h with ⟨hr, he⟩ | ⟨hr, he, hc⟩ | ⟨hr, hc⟩
    · simp [writeControl, controlEffect, hr, he, hd]
    · simp [writeControl, controlEffect, controlStopped, hr, he, hd, hc, hstop]
    · simp [writeControl, controlEffect, controlStopped, hr, hd, hc]
  | kept hr hd => cases en <;> simp [writeControl, controlEffect, controlStopped, hr, hd]
  | stopped hr he hd => simp [writeControl, controlEffect, controlStopped, hr, he, hd, hstop]
  | stoppedDb hr he hd hc => simp [writeControl, controlEffect, controlStopped, hr, he, hd, hc, hstop]
  | storedDb hr he hd hc => simp [writeControl, controlEffect, controlStopped, hr, he, hd, hc]
  | started hr he hd => simp [writeControl, controlEffect, controlStopped, hr, he, hd]
  | startedDb hr he hd hc => simp [writeControl, controlEffect, controlStopped, hr, he, hd, hc]

/-- What a `CTRL` write completes with. -/
theorem exec_wrCtrl_of_effect {s t : State} {d : Word} (h : ControlEffect (d.getLsbD 0) (d.getLsbD 1) s t) :
    exec (.wrCtrl d) s = .next { t with rdata := none } := next_acknowledge (writeControl_of_effect h)

/-- Settles O20: the write is refused, changes nothing or stores `DB`. -/
theorem controlWritesWithoutStartOrStop : Obligations.ControlWritesWithoutStartOrStop := by
  intro s d
  refine ⟨fun hr he => ?running, fun hr hd hc => ?copying, fun hr he hd => ?kept, fun hr he hd hc => ?stored⟩
  case running =>
    split_ifs with hd
    · exact exec_wrCtrl_of_effect (.kept (hr.trans he.symm) hd)
    · exact exec_wrCtrl_of_effect (.refused hd (.inl ⟨hr, he⟩))
  case copying => exact exec_wrCtrl_of_effect (.refused hd (.inr (.inr ⟨hr, hc⟩)))
  case kept => exact exec_wrCtrl_of_effect (.kept (hr.trans he.symm) hd)
  case stored => exact exec_wrCtrl_of_effect (.storedDb hr he hd hc)

end Sys2Proof.Machine
end

section
/-! SUPPORT. The mux mask table (41_mux_table.md): what an entry of the generated table does to the mux lines, and the row the
panel selects for the levels of a row. -/

namespace Sys2Proof.Machine

/-! ### The levels of a row, line by line -/

/-- The line mask has the lines below `MUXCNT` (41_mux_table.md R251). -/
theorem getLsbD_lineMask (s : State) {j : Nat} (hj : j < 32) :
    (lineMask s).getLsbD j = decide (j < s.muxcnt.toNat) := by
  rw [lineMask, BitVec.getLsbD_ofNat, Nat.testBit_two_pow_sub_one, decide_eq_true hj, Bool.true_and]

/-- Direct mux: line `i` is at the select level, the other lines below `MUXCNT` are not (41_mux_table.md R252). -/
theorem getLsbD_muxLevel_direct {s : State} (hd : s.muxcnt = s.nrows) (i : Nat) {j : Nat} (hj : j < 32)
    (hline : j < s.muxcnt.toNat) : (muxLevel s i).getLsbD j = if j = i then s.selLvl else !s.selLvl := by
  have hdirect : direct s = true := by simpa [direct] using hd
  have hone : (1#32 <<< i).getLsbD j = decide (j = i) := by
    rw [Bool.eq_iff_iff, BitVec.getLsbD_shiftLeft, BitVec.getLsbD_one]
    simp only [hj, decide_true, Bool.true_and, Bool.and_eq_true, Bool.not_eq_true', decide_eq_true_eq, decide_eq_false_iff_not]
    omega
  cases hlevel : s.selLvl
  · rw [muxLevel, if_pos hdirect, hlevel, if_neg Bool.false_ne_true, BitVec.getLsbD_and, BitVec.getLsbD_not, hone,
      getLsbD_lineMask s hj]
    by_cases hji : j = i <;> simp [hji, hj, hline]
  · rw [muxLevel, if_pos hdirect, hlevel, if_pos rfl, hone]
    by_cases hji : j = i <;> simp [hji]

/-- Binary mux: the lines carry the row number (41_mux_table.md R253). -/
theorem muxLevel_binary {s : State} (h : s.muxcnt ≠ s.nrows) (i : Nat) : muxLevel s i = BitVec.ofNat 32 i := by
  simp [muxLevel, direct, h]

/-- A row number that fits in the lines is not cut off by the line mask. -/
theorem toNat_ofNat_and_lineMask {s : State} {i : Nat} (hi : i < 2 ^ s.muxcnt.toNat) (hi32 : i < 2 ^ 32) :
    (BitVec.ofNat 32 i &&& lineMask s).toNat = i := by
  rw [lineMask, ← BitVec.ofNat_and, Nat.and_two_pow_sub_one_eq_mod, Nat.mod_eq_of_lt hi]
  exact Nat.mod_eq_of_lt hi32

/-! ### The row the panel selects -/

/-- Direct mux: at the levels of row `i` the one line at the select level is line `i` (41_mux_table.md R252). -/
theorem selectedLines_muxLevel {s : State} (hd : s.muxcnt = s.nrows) (hmax : s.nrows.toNat ≤ 32) {i : Nat}
    (hi : i < s.nrows.toNat) : selectedLines s (muxLevel s i &&& lineMask s) = [i] := by
  have hselected : ∀ j ∈ List.range s.muxcnt.toNat, ((muxLevel s i &&& lineMask s).getLsbD j == s.selLvl) = (j == i) := by
    intro j hj
    rw [List.mem_range] at hj
    have hj32 : j < 32 := by rw [hd] at hj; omega
    rw [BitVec.getLsbD_and, getLsbD_muxLevel_direct hd i hj32 hj, getLsbD_lineMask s hj32]
    by_cases hji : j = i
    · subst hji; simp [hj]
    · simp [hji, hj]
  have hmem : i ∈ List.range s.muxcnt.toNat := by simpa [hd] using hi
  rw [selectedLines, List.filter_congr hselected, List.filter_beq, List.count_eq_one_of_mem List.nodup_range hmem,
    List.replicate_one]

/-- The lines at the levels of row `i` select row `i` and no other (41_mux_table.md R260). -/
theorem selrow_muxLevel {s : State} (hc : cfgValid s = true) {i : Nat} (hi : i < s.nrows.toNat) :
    selrow s (muxLevel s i &&& lineMask s) = some i := by
  obtain ⟨-, -, -, -, -, hmax, -, -, -, hmux⟩ := (cfgValid_iff s).mp hc
  obtain hd | ⟨-, hlt, hpow⟩ := hmux
  · simp [selrow, direct, hd, selectedLines_muxLevel hd hmax hi]
  · have hne : s.muxcnt ≠ s.nrows := fun h => hlt.ne (congrArg BitVec.toNat h)
    have hrow := toNat_ofNat_and_lineMask (s := s) (hpow ▸ hi) (by omega)
    rw [muxLevel_binary hne, selrow, if_neg (by simpa [direct] using hne), BitVec.and_assoc, BitVec.and_self, hrow]

/-! ### The entries of the generated table -/

/-- Generating the table changes the two arrays only, and they hold the entries of R258. -/
theorem exists_generateMuxTable_eq (s : State) : ∃ set clr, generateMuxTable s = { s with muxset := set, muxclr := clr }
    ∧ ∀ i, i ≤ 32 → muxEntry set i = (tableEntry s i).1 ∧ muxEntry clr i = (tableEntry s i).2 :=
  ⟨_, _, rfl, fun _ hi => generateMuxTable_entry s hi⟩

/-- Entry `i` is that of row `i` modulo `NROWS`, the sentinel included (41_mux_table.md R256). -/
theorem tableEntry_eq_rowEntry {s : State} {i : Nat} (hi : i ≤ s.nrows.toNat) :
    tableEntry s i = rowEntry s (i % s.nrows.toNat) := by
  obtain hlt | rfl := hi.lt_or_eq
  · rw [tableEntry, if_pos hlt, Nat.mod_eq_of_lt hlt]
  · rw [tableEntry, if_neg (lt_irrefl _), if_pos rfl, Nat.mod_self]

/-- REG: an entry of the generated table puts the lines at its row's levels, where the unused ones were 0
(41_mux_table.md R254, R259). -/
theorem appliedLevels_eq {s : State} {k : Nat} (hp : s.par.backend = .reg) (hk : k ≤ s.nrows.toNat)
    (hlines : s.muxLvl &&& ~~~(lineMask s) = 0#32)
    (htable : muxEntry s.muxset k = (tableEntry s k).1 ∧ muxEntry s.muxclr k = (tableEntry s k).2) :
    appliedLevels s k = muxLevel s (k % s.nrows.toNat) &&& lineMask s := by
  obtain ⟨hset, hclr⟩ := htable
  rw [appliedLevels, hset, hclr, tableEntry_eq_rowEntry hk, rowEntry, hp]
  dsimp only
  generalize muxLevel s _ = l
  generalize lineMask s = m at hlines ⊢
  generalize s.muxLvl = v at hlines ⊢
  ext j hj
  have hbit : (v &&& ~~~m)[j] = false := by rw [hlines]; simp
  simp only [BitVec.getElem_and, BitVec.getElem_or, BitVec.getElem_not] at hbit ⊢
  generalize v[j] = v, l[j] = l, m[j] = m at hbit ⊢
  revert v l m
  decide

/-- PIO: an entry of the generated table is its row's number (41_mux_table.md R257). -/
theorem muxEntry_pio {s : State} {k : Nat} (hp : s.par.backend = .pio) (hc : cfgValid s = true) (hk : k ≤ s.nrows.toNat)
    (hset : muxEntry s.muxset k = (tableEntry s k).1) : (muxEntry s.muxset k).toNat = k % s.nrows.toNat := by
  have hpos := nrows_pos hc
  obtain ⟨-, -, -, -, -, hmax, -⟩ := (cfgValid_iff s).mp hc
  have hrow := Nat.mod_lt k hpos
  rw [hset, tableEntry_eq_rowEntry hk, rowEntry, hp]
  exact Nat.mod_eq_of_lt (by omega)

/-- The levels of a row leave the unused lines 0 (41_mux_table.md R255). -/
theorem and_lineMask_unused (s : State) (v : Word) : v &&& lineMask s &&& ~~~(lineMask s) = 0#32 := by
  rw [BitVec.and_assoc, BitVec.and_not_self]
  exact BitVec.and_zero

/-- REG: applying an entry of the generated table drives its row's levels. -/
theorem applyMux_of_table {s : State} {k : Nat} (hp : s.par.backend = .reg) (hk : k ≤ s.nrows.toNat)
    (hlines : s.muxLvl &&& ~~~(lineMask s) = 0#32)
    (htable : muxEntry s.muxset k = (tableEntry s k).1 ∧ muxEntry s.muxclr k = (tableEntry s k).2) :
    applyMux k s = driveMux (muxLevel s (k % s.nrows.toNat) &&& lineMask s) s := by
  rw [← appliedLevels_eq hp hk hlines htable, applyMux, hp]

/-- PIO: applying an entry of the generated table and then the MUXSM step drive the entry's row's levels (45_backends.md R440,
R441). -/
theorem muxsmStep_applyMux_of_table {s : State} {k : Nat} (hp : s.par.backend = .pio) (hc : cfgValid s = true)
    (hk : k ≤ s.nrows.toNat) (hset : muxEntry s.muxset k = (tableEntry s k).1) :
    muxsmStep (applyMux k s)
      = { driveMux (muxLevel s (k % s.nrows.toNat) &&& lineMask s) s with muxPend := none } := by
  rw [applyMux_pio hp, muxEntry_pio hp hc hk hset]
  rfl

/-- Settles O38: under REG the entry puts the lines at its row's levels, under PIO it hands the row's number to the mux state
machine, which does; the levels of a row select that row. -/
theorem muxTableSelectsOneRow : Obligations.MuxTableSelectsOneRow := by
  intro s hc hlines i hi
  have hpos := nrows_pos hc
  obtain ⟨-, -, -, -, -, hmax, -⟩ := (cfgValid_iff s).mp hc
  have hsentinel := generateMuxTable_sentinel hc
  have hselects := selrow_muxLevel hc (Nat.mod_lt i hpos)
  have hunused := and_lineMask_unused s (muxLevel s (i % s.nrows.toNat))
  obtain ⟨set, clr, hgen, hentries⟩ := exists_generateMuxTable_eq s
  have htable := hentries i (hi.trans hmax)
  rw [hgen] at hsentinel ⊢
  cases hp : s.par.backend with
  | reg =>
    intro g u
    have hu : u = driveMux _ g := applyMux_of_table (s := g) hp hi hlines htable
    rw [hu]
    exact ⟨hselects, hunused, hsentinel⟩
  | pio =>
    intro g u
    have hu : u = { driveMux _ g with muxPend := none } := muxsmStep_applyMux_of_table (s := g) hp hc hi htable.1
    rw [hu]
    exact ⟨hselects, hunused, hsentinel⟩

end Sys2Proof.Machine
end

section
/-! SUPPORT. The coherence of the table, the mux lines, the panel and the PIO agents while the block runs (41_mux_table.md R250,
R255, 10_state.md R76, 43_refresh_sequencer.md R343, 44_swap_arbiter.md R390): every step keeps it. Of a stopped block nothing
is asked that R78 does not give, so the operations that end in one, and those that only a stopped block performs, are settled
by R78 alone. -/

namespace Sys2Proof.Machine

/-! ### A stopped block -/

/-- A stopped block is coherent: R78(c) leaves no burst, no byte to shift and no row to drive. -/
theorem SpecInvariant.coherent_of_stopped {s : State} (h : SpecInvariant s) (hr : s.run = false) : Coherent s := by
  obtain ⟨hb, -, -, -, hrem, hpend⟩ := h.stopped hr
  exact {
    table := (flag_absurd · hr)
    unusedLines := (flag_absurd · hr)
    panel := (flag_absurd · hr)
    lookahead := (flag_absurd · hr)
    pending := fun i hi => nomatch hpend.symm.trans hi
    shifted := (flag_absurd · hb)
    slot := fun hpos => absurd hrem hpos.ne'
    transfer := fun hpos => absurd hrem hpos.ne'
    dark := (flag_absurd · hb) }

/-! ### The panel and a row shift -/

/-- A row of the panel chain has a bit in every valid configuration. -/
theorem chainBits_pos {s : State} (h : cfgValid s = true) : 0 < chainBits s := by
  obtain ⟨hpw, -, hnx, hny, hn, -, hph, hdvd, -⟩ := (cfgValid_iff s).mp h
  have hpanels : 0 < numPanels s := Nat.mul_pos hnx hny
  have hgroup : 0 < groupLines s := Nat.div_pos (Nat.le_of_dvd hph (Nat.dvd_of_mod_eq_zero hdvd)) hn
  have hbytes : 0 < s.pw.toNat / 8 := Nat.div_pos hpw (by decide)
  rw [chainBits, rowBytes_eq h]
  positivity

/-- A start leaves the panel's registers of the chain's length, and changes nothing else but the draws (45_backends.md R455). -/
theorem fitPanel_fits (s : State) : ∃ sr lr d, sr.length = chainBits s ∧ lr.length = chainBits s
    ∧ fitPanel s = { s with panelSr := sr, panelLr := lr, draws := d } := by
  unfold fitPanel
  split
  · next hfit => exact ⟨_, _, _, hfit.1, hfit.2, rfl⟩
  · exact ⟨_, _, _, by simp [drawBits], by simp [drawBits], rfl⟩

/-- The preload of a start is a row shift of a block that runs already (43_refresh_sequencer.md R323). -/
theorem preloadAndRun_eq (s : State) : preloadAndRun s = shiftRow (fslot s) 0 { s with run := true } := by
  cases hp : s.par.backend with
  | reg => simp only [preloadAndRun, shiftRow, hp, shiftRowReg_eq]; rfl
  | pio => simp only [preloadAndRun, shiftRow, hp, shiftRowPio]; rfl

/-- Phase 3 is a row shift of a block whose burst is over (43_refresh_sequencer.md R348). -/
theorem seqPhase3_eq (s : State) : seqPhase3 s = shiftRow (fslot s) (nextRow s * rowBytes s)
    { s with nm := s.row + 1, row := nextRow s, phase := 0, busy := false } := by
  cases hp : s.par.backend with
  | reg => simp only [seqPhase3_reg hp, shiftRow, hp, shiftRowReg_eq]; rfl
  | pio => simp only [seqPhase3_pio hp, shiftRow, hp, shiftRowPio]; rfl

/-- Between bursts a shift of a row of the front slot may begin (45_backends.md R431, R434). -/
theorem Coherent.shiftRow {s : State} (h : Coherent s) (hb : s.busy = false) {base : Nat}
    (hfit : base + rowBytes s ≤ frameBytes s) : Coherent (shiftRow (fslot s) base s) := by
  cases hp : s.par.backend with
  | reg =>
    simp only [Machine.shiftRow, hp, shiftRowReg_eq]
    refine { h with panel := fun hr => ?_ }
    obtain ⟨hsr, hlr⟩ := h.panel hr
    refine ⟨?_, hlr⟩
    dsimp only
    rw [shiftIn_full _ _ (hsr.trans (rowLevels_length _ _ _ _).symm), rowLevels_length]
    rfl
  | pio =>
    simp only [Machine.shiftRow, hp, shiftRowPio]
    exact { h with
      shifted := (flag_absurd · hb)
      slot := fun _ => rfl
      transfer := fun _ => hfit }

/-- A row waits for the mux state machine in phase 1 only. -/
theorem Coherent.muxPend_ne {s : State} (h : Coherent s) (hp : s.phase ≠ 1) (i : Nat) : s.muxPend ≠ some i := fun hi =>
  hp (h.pending i hi).2.1

/-! ### The start -/

/-- An accepted start generates the table, puts every mux line to 0, fits the panel and preloads row 0 of the front slot
(43_refresh_sequencer.md R323). -/
theorem SpecInvariant.acceptedStart_coherent {s : State} (h : SpecInvariant s) (hr : s.run = false) (hc : cfgValid s = true) :
    Coherent (Machine.acceptedStart s) := by
  obtain ⟨-, -, -, -, hrem, -⟩ := h.stopped hr
  obtain ⟨sr, lr, d, hsr, hlr, hfit⟩ := fitPanel_fits (driveMux 0#32 (clearSequencer (loadTiming (generateMuxTable s))))
  obtain ⟨set, clr, hgen, htable⟩ := exists_generateMuxTable_eq s
  rw [Machine.acceptedStart, hfit, preloadAndRun_eq]
  rw [hgen] at hsr hlr ⊢
  refine Coherent.shiftRow ?cleared rfl ?fits
  case fits =>
    have hrow : 0 * rowBytes s + rowBytes s ≤ frameBytes s := rows_fit 0 (nrows_pos hc)
    rwa [Nat.zero_mul] at hrow
  case cleared =>
    exact {
      table := fun _ i hi => by
        rw [tableEntry_congr (s := s)]
        · exact htable i hi
        all_goals rfl
      unusedLines := fun _ => BitVec.zero_and
      panel := fun _ => ⟨hsr, hlr⟩
      lookahead := fun _ => Nat.zero_mod _
      pending := nofun
      shifted := nofun
      slot := fun hpos => absurd hrem hpos.ne'
      transfer := fun hpos => absurd hrem hpos.ne'
      dark := nofun }

theorem SpecInvariant.start_coherent {s : State} (h : SpecInvariant s) (hr : s.run = false) : Coherent (Machine.start s) := by
  unfold Machine.start
  split
  · next hc => exact h.acceptedStart_coherent hr hc
  · exact { h.coherent_of_stopped hr with }

/-! ### Every operation keeps the coherence -/

section
variable {s : State} (h : Invariant s)
include h

theorem Invariant.refuseTransaction_coherent (wr : Bool) : Coherent (refuseTransaction wr s) := by
  cases wr <;> exact { h.coherent with }

/-- A `CTRL` write between bursts. -/
theorem Invariant.writeControl_coherent (hb : s.busy = false) (en db : Bool) : Coherent (writeControl en db s) := by
  have hspec := h.spec.writeControl hb en db
  have he := writeControl_effect en db s
  generalize writeControl en db s = t at he hspec ⊢
  cases he with
  | refused => exact { h.coherent with }
  | kept => exact h.coherent
  | stopped => exact hspec.coherent_of_stopped (stop_run s)
  | stoppedDb => exact hspec.coherent_of_stopped (stop_run s)
  | storedDb hr => exact hspec.coherent_of_stopped hr
  | started hr => exact h.spec.start_coherent hr
  | startedDb hr _ _ hc => exact (h.spec.setDoubleBuffer hr hc db).start_coherent hr

/-- A swap request is armed while running; the exchange of a stopped block moves no transfer (44_swap_arbiter.md R382, R386). -/
theorem Invariant.requestSwap_coherent (req copy : Bool) : Coherent (requestSwap req copy s) := by
  cases hr : s.run with
  | false =>
    refine (h.spec.requestSwap req copy).coherent_of_stopped ?_
    unfold Machine.requestSwap
    split_ifs <;> exact hr
  | true =>
    unfold Machine.requestSwap
    split_ifs
    · exact h.coherent
    · exact { h.coherent with }

/-- Every instruction performed between bursts keeps the coherence. -/
theorem Invariant.execEffect_coherent (hb : s.busy = false) {i : Instr} {t : State} (he : ExecEffect s i t) :
    Coherent t := by
  have hspec := h.spec.execEffect hb he
  cases he with
  | misaligned => exact h.refuseTransaction_coherent _
  | ctrl d => exact { h.writeControl_coherent hb _ _ with }
  | swap d => exact { h.requestSwap_coherent _ _ with }
  | store _ n a d =>
    rw [memWrite_eq]
    exact { h.coherent with }
  | geom0 d hr => exact hspec.coherent_of_stopped hr
  | geom1 d hr => exact hspec.coherent_of_stopped hr
  | pol d hr => exact hspec.coherent_of_stopped hr
  | _ => exact { h.coherent with }

/-- The tick begins a burst at phase 0, with no row waiting for the mux state machine (60_exceptions.md R483). -/
theorem Invariant.timerStep_coherent (hb : s.busy = false) : Coherent (timerStep s) := by
  have hphase := h.spec.phaseAtRest hb
  have hbegin : Coherent { s with busy := true } :=
    { h.coherent with
      pending := fun i hi => flag_absurd (h.coherent.pending i hi).1 hb
      shifted := fun _ (h2 : 2 ≤ s.phase.val) => by simp [hphase] at h2
      dark := fun _ (h1 : s.phase = 1) => absurd (hphase.symm.trans h1) (by decide) }
  unfold Machine.timerStep
  split_ifs
  · exact { hbegin with }
  · exact { hbegin with }
  · exact { h.coherent with }

/-- Phase 0 drives the lines or hands on the row of the burst, and closes the light window (43_refresh_sequencer.md R340). -/
theorem Invariant.seqPhase0_coherent (hr : s.run = true) (hb : s.busy = true) : Coherent (seqPhase0 s) := by
  obtain ⟨hc, -, hnm, -⟩ := h.spec.running hr
  have htable := h.coherent.table hr s.nm h.range.nm
  cases hp : s.par.backend with
  | reg =>
    obtain ⟨-, -, -, hidle⟩ := h.range.regIdle hp
    rw [seqPhase0_reg hp, appliedLevels_eq hp hnm (h.coherent.unusedLines hr) htable]
    exact { h.coherent with
      unusedLines := fun _ => and_lineMask_unused s _
      pending := fun i hi => nomatch hidle.symm.trans hi
      shifted := fun _ (h2 : 2 ≤ (1 : Fin 4).val) => absurd h2 (by decide)
      dark := fun _ _ => rfl }
  | pio =>
    have hrow : (muxEntry s.muxset s.nm).toNat = s.row :=
      (muxEntry_pio hp hc hnm htable.1).trans (h.coherent.lookahead hr)
    rw [seqPhase0_pio hp, hrow]
    exact { h.coherent with
      pending := fun i hi => ⟨hb, rfl, (Option.some.inj hi).symm⟩
      shifted := fun _ (h2 : 2 ≤ (1 : Fin 4).val) => absurd h2 (by decide)
      dark := fun _ _ => rfl }

/-- Phase 1 runs only with no row to drive and no byte to shift: under REG there never are any, under PIO it waits
(43_refresh_sequencer.md R343). -/
theorem Invariant.drained_of_seqReady (hp : s.phase = 1) (hq : seqReady s = true) : s.muxPend = none ∧ s.shRem = 0 := by
  cases hbackend : s.par.backend with
  | reg =>
    obtain ⟨hrem, -, -, hpend⟩ := h.range.regIdle hbackend
    exact ⟨hpend, hrem⟩
  | pio => exact (seqReady_iff s).mp hq hp hbackend

/-- Phase 1 latches the whole row (43_refresh_sequencer.md R342, 45_backends.md R451). -/
theorem Invariant.seqPhase1_coherent (hp : s.phase = 1) (hq : seqReady s = true) : Coherent (seqPhase1 s) := by
  obtain ⟨hpend, hrem⟩ := h.drained_of_seqReady hp hq
  rw [seqPhase1_eq]
  exact { h.coherent with
    panel := fun hr => have ⟨hsr, _⟩ := h.coherent.panel hr; ⟨hsr, hsr⟩
    pending := fun i hi => nomatch hpend.symm.trans hi
    shifted := fun _ _ => hrem
    dark := fun _ (h1 : (2 : Fin 4) = 1) => absurd h1 (by decide) }

/-- Phase 2 exchanges the slots with no byte left to shift, so the shifter never crosses them (44_swap_arbiter.md R390). -/
theorem Invariant.seqPhase2_coherent (hb : s.busy = true) (hp : s.phase = 2) : Coherent (seqPhase2 s) := by
  have hrem : s.shRem = 0 := h.coherent.shifted hb (by simp [hp])
  have hnext : Coherent { s with phase := 3 } :=
    { h.coherent with
      pending := fun i hi => absurd hi (h.coherent.muxPend_ne (by simp [hp]) i)
      shifted := fun _ _ => hrem
      dark := fun _ (h1 : (3 : Fin 4) = 1) => absurd h1 (by decide) }
  unfold Machine.seqPhase2
  dsimp only
  split_ifs
  · exact { hnext with slot := fun hpos => absurd hrem hpos.ne' }
  · exact { hnext with }
  · exact hnext

/-- Phase 3 ends the burst, moves the row on and shifts the row after it (43_refresh_sequencer.md R348). -/
theorem Invariant.seqPhase3_coherent (hr : s.run = true) (hp : s.phase = 3) : Coherent (seqPhase3 s) := by
  obtain ⟨hc, -, -, -⟩ := h.spec.running hr
  rw [seqPhase3_eq]
  refine Coherent.shiftRow ?ended rfl (rows_fit _ (Nat.mod_lt _ (nrows_pos hc)))
  case ended =>
    exact { h.coherent with
      lookahead := fun _ => rfl
      pending := fun i hi => absurd hi (h.coherent.muxPend_ne (by simp [hp]) i)
      shifted := nofun
      dark := nofun }

theorem Invariant.seqStep_coherent (hr : s.run = true) (hb : s.busy = true) (hq : seqReady s = true) :
    Coherent (seqStep s) := by
  obtain hp | hp | hp | hp := phase_cases s.phase
  · rw [seqStep_zero hp]; exact h.seqPhase0_coherent hr hb
  · rw [seqStep_one hp]; exact h.seqPhase1_coherent hp hq
  · rw [seqStep_two hp]; exact h.seqPhase2_coherent hb hp
  · rw [seqStep_three hp]; exact h.seqPhase3_coherent hr hp

/-- A byte shifted moves from the bytes left to the bytes done; the panel keeps its length (45_backends.md R435, R450). -/
theorem Invariant.shiftStep_coherent (hrem : 0 < s.shRem) : Coherent (shiftStep s) := by
  have hfit := h.coherent.transfer hrem
  rw [shiftStep_eq]
  refine { h.coherent with
    panel := fun hr => ?panel
    shifted := fun hb hp => absurd (h.coherent.shifted hb hp) hrem.ne'
    slot := fun _ => h.coherent.slot hrem
    transfer := fun _ => ?fit }
  case panel =>
    obtain ⟨hsr, hlr⟩ := h.coherent.panel hr
    obtain ⟨hc, -⟩ := h.spec.running hr
    have hpos : 0 < s.panelSr.length := hsr ▸ chainBits_pos hc
    exact ⟨(shiftIn_length _ _ hpos).trans hsr, hlr⟩
  case fit =>
    show s.shSrc + 1 + (s.shRem - 1) ≤ frameBytes s
    omega

/-- The MUXSM step drives lines below `MUXCNT` only and leaves no row pending (45_backends.md R440). -/
theorem Invariant.muxsmStep_coherent {i : Nat} (hi : s.muxPend = some i) : Coherent (muxsmStep s) := by
  rw [muxsmStep_eq hi]
  exact { h.coherent with
    unusedLines := fun _ => and_lineMask_unused s _
    pending := nofun }

theorem Invariant.copyStep_coherent : Coherent (copyStep s) := by
  rw [copyStep_eq]
  exact { h.coherent with }

/-- What the host has still to issue, the schedule and how far it has come are read by no invariant. -/
theorem Invariant.withOutside (hostq : List Transaction) (turns : List Turn) (turn : Nat) :
    Invariant { s with hostq := hostq, turns := turns, turn := turn } :=
  ⟨{ h.spec with }, { h.range with }, { h.coherent with }⟩

/-- Every turn keeps the coherence. -/
theorem Invariant.turnEffect_coherent {τ : Turn} {t : State} (he : TurnEffect s τ t) : Coherent t := by
  cases he with
  | hold => exact h.coherent
  | reset => exact resetInput_coherent s
  | timer _ hb => exact h.timerStep_coherent hb
  | seq hr hb hq => exact h.seqStep_coherent hr hb hq
  | copy => exact h.copyStep_coherent
  | shift _ hrem => exact h.shiftStep_coherent hrem
  | muxsm _ i hi => exact h.muxsmStep_coherent hi
  | host w q i t hb _ _ he => exact (h.withOutside q s.turns s.turn).execEffect_coherent hb he
  | illegal w q => exact (h.withOutside q s.turns s.turn).refuseTransaction_coherent _

end

/-- Settles O53: a step is a turn, every effect of which keeps the coherence. -/
theorem stepKeepsCoherence : Obligations.StepKeepsCoherence := by
  intro s t h hstep
  obtain ⟨τ, turns, turn, ht⟩ := step_takesTurn hstep
  exact (h.withOutside s.hostq turns turn).turnEffect_coherent (takeTurn_effect ht)

end Sys2Proof.Machine
end

section
/-! SUPPORT. The reference pixel mapping (42_buffer_access.md R300 to R303). A byte offset is a number in mixed radix: its
digits are the mux row, the panel, the line in the row-group and the byte of the line. A display coordinate has the digits
panel and place in the panel. Both mappings are bijections since the digits determine the number and every number has
digits. -/

namespace Sys2Proof.Machine

/-! ### Two digits -/

section
variable {k q r : Nat}

theorem mul_add_div_of_lt (hr : r < k) : (q * k + r) / k = q := by
  rw [Nat.mul_comm, Nat.mul_add_div (by omega), Nat.div_eq_of_lt hr, Nat.add_zero]

/-- The digits are determined by the number. -/
theorem digits_inj {q' r' : Nat} (hr : r < k) (hr' : r' < k) (h : q * k + r = q' * k + r') : q = q' ∧ r = r' := by
  have hdiv := congrArg (· / k) h
  have hmod := congrArg (· % k) h
  simp only [mul_add_div_of_lt hr, mul_add_div_of_lt hr'] at hdiv
  simp only [Nat.mul_add_mod_of_lt hr, Nat.mul_add_mod_of_lt hr'] at hmod
  exact ⟨hdiv, hmod⟩

theorem digits_lt {m : Nat} (hq : q < m) (hr : r < k) : q * k + r < m * k := by
  rw [Nat.mul_comm q k]
  exact Nat.mul_add_lt_mul_of_lt_of_lt hq hr

/-- A number below `m * k` has its two digits. -/
theorem exists_digits {m o : Nat} (h : o < m * k) : ∃ q r, q < m ∧ r < k ∧ q * k + r = o := by
  have hk : 0 < k := Nat.pos_of_mul_pos_left (Nat.zero_lt_of_lt h)
  exact ⟨o / k, o % k, Nat.div_lt_of_lt_mul (by rwa [Nat.mul_comm k m]), Nat.mod_lt _ hk, Nat.div_add_mod' o k⟩

end

/-! ### The sizes of a valid configuration -/

section
variable {s : State} (h : cfgValid s = true)
include h

theorem lineBytes_mul : s.pw.toNat / 8 * 8 = s.pw.toNat := by
  obtain ⟨-, hpw, -⟩ := (cfgValid_iff s).mp h
  exact Nat.div_mul_cancel (Nat.dvd_of_mod_eq_zero hpw)

theorem groupLines_mul : groupLines s * s.nrows.toNat = s.ph.toNat := by
  obtain ⟨-, -, -, -, -, -, -, hph, -⟩ := (cfgValid_iff s).mp h
  exact Nat.div_mul_cancel (Nat.dvd_of_mod_eq_zero hph)

/-- The frame is its rows and nothing else (00_scope.md R12). -/
theorem frameBytes_eq : frameBytes s = s.nrows.toNat * rowBytes s := by
  have hbits : numPanels s * s.pw.toNat * s.ph.toNat
      = s.nrows.toNat * (numPanels s * groupLines s * (s.pw.toNat / 8)) * 8 := by
    conv_lhs => rw [← lineBytes_mul h, ← groupLines_mul h]
    ring
  rw [frameBytes, hbits, Nat.mul_div_cancel _ (by decide), rowBytes_eq h]

/-! ### The mapping of a panel's pixels -/

/-- A line of a panel has its place among the lines shifted for a row (42_buffer_access.md R300). -/
theorem line_div_lt {y : Nat} (hy : y < s.ph.toNat) : y / s.nrows.toNat < groupLines s :=
  Nat.div_lt_of_lt_mul (by rwa [Nat.mul_comm, groupLines_mul h])

/-- A panel's byte lies in its row (42_buffer_access.md R303). -/
theorem byteInRow_lt {p k c : Nat} (hp : p < numPanels s) (hk : k < groupLines s) (hc : c < s.pw.toNat / 8) :
    (p * groupLines s + k) * (s.pw.toNat / 8) + c < rowBytes s := by
  rw [rowBytes_eq h]
  exact digits_lt (digits_lt hp hk) hc

/-- A panel's pixel is determined by its place in the slot: digit by digit of the byte offset. -/
theorem pixAddrPanel_inj {p x y p' x' y' : Nat} (hp : p < numPanels s) (hx : x < s.pw.toNat) (hy : y < s.ph.toNat)
    (hp' : p' < numPanels s) (hx' : x' < s.pw.toNat) (hy' : y' < s.ph.toNat)
    (heq : pixAddrPanel s p x y = pixAddrPanel s p' x' y') : p = p' ∧ x = x' ∧ y = y' := by
  have hw := lineBytes_mul h
  have hcol : x / 8 < s.pw.toNat / 8 := by omega
  have hcol' : x' / 8 < s.pw.toNat / 8 := by omega
  have hgroup := line_div_lt h hy
  have hgroup' := line_div_lt h hy'
  simp only [pixAddrPanel, BitPos.mk.injEq, Nat.add_assoc (_ * rowBytes s)] at heq
  obtain ⟨hbyte, hbit⟩ := heq
  obtain ⟨hrow, hplace⟩ := digits_inj (byteInRow_lt h hp hgroup hcol) (byteInRow_lt h hp' hgroup' hcol') hbyte
  obtain ⟨hline, hcolumn⟩ := digits_inj hcol hcol' hplace
  obtain ⟨hpanel, hk⟩ := digits_inj hgroup hgroup' hline
  exact ⟨hpanel, by omega, Nat.ext_div_mod hk hrow⟩

/-- Every bit of the frame is the place of a panel's pixel: the digits of its byte offset name the pixel. -/
theorem pixAddrPanel_surj {o b : Nat} (ho : o < frameBytes s) (hb : b < 8) : ∃ p x y,
    p < numPanels s ∧ x < s.pw.toNat ∧ y < s.ph.toNat ∧ pixAddrPanel s p x y = { byte := o, bit := b } := by
  rw [frameBytes_eq h] at ho
  obtain ⟨r, place, hr, hplace, rfl⟩ := exists_digits ho
  rw [rowBytes_eq h] at hplace
  obtain ⟨line, c, hline, hc, rfl⟩ := exists_digits hplace
  obtain ⟨p, k, hp, hk, rfl⟩ := exists_digits hline
  have hbit : 7 - b < 8 := by omega
  refine ⟨p, c * 8 + (7 - b), k * s.nrows.toNat + r, hp, ?x, ?y, ?place⟩
  case x => exact lineBytes_mul h ▸ digits_lt hc hbit
  case y => exact groupLines_mul h ▸ digits_lt hk hr
  case place =>
    rw [pixAddrPanel, mul_add_div_of_lt hr, Nat.mul_add_mod_of_lt hr, mul_add_div_of_lt hbit, Nat.mul_add_mod_of_lt hbit,
      Nat.add_assoc, Nat.sub_sub_self (by omega)]

end

/-! ### The mapping of the display's pixels -/

theorem onDisplay_iff {s : State} {x y : Nat} :
    onDisplay s x y = true ↔ x < s.nx.toNat * s.pw.toNat ∧ y < s.ny.toNat * s.ph.toNat := by
  simp only [onDisplay, Bool.and_eq_true, decide_eq_true_eq]

/-- Column `x`, line `y` of the panel at column `i`, row `j` of the panels (42_buffer_access.md R301). -/
theorem pixAddr_of_digits {s : State} {i x j y : Nat} (hx : x < s.pw.toNat) (hy : y < s.ph.toNat) :
    pixAddr s (i * s.pw.toNat + x) (j * s.ph.toNat + y) = pixAddrPanel s (j * s.nx.toNat + i) x y := by
  rw [pixAddr, mul_add_div_of_lt hx, mul_add_div_of_lt hy, Nat.mul_add_mod_of_lt hx, Nat.mul_add_mod_of_lt hy]

theorem panel_lt {s : State} {i j : Nat} (hi : i < s.nx.toNat) (hj : j < s.ny.toNat) :
    j * s.nx.toNat + i < numPanels s := by
  rw [numPanels, Nat.mul_comm s.nx.toNat s.ny.toNat]
  exact digits_lt hj hi

/-- Two display pixels at one place are one: their panels are, and their places in the panel. -/
theorem pixAddr_inj {s : State} (h : cfgValid s = true) {x y x' y' : Nat} (hd : onDisplay s x y = true)
    (hd' : onDisplay s x' y' = true) (heq : pixAddr s x y = pixAddr s x' y') : x = x' ∧ y = y' := by
  obtain ⟨hX, hY⟩ := onDisplay_iff.mp hd
  obtain ⟨hX', hY'⟩ := onDisplay_iff.mp hd'
  obtain ⟨i, x, hi, hx, rfl⟩ := exists_digits hX
  obtain ⟨j, y, hj, hy, rfl⟩ := exists_digits hY
  obtain ⟨i', x', hi', hx', rfl⟩ := exists_digits hX'
  obtain ⟨j', y', hj', hy', rfl⟩ := exists_digits hY'
  rw [pixAddr_of_digits hx hy, pixAddr_of_digits hx' hy'] at heq
  obtain ⟨hpanel, rfl, rfl⟩ := pixAddrPanel_inj h (panel_lt hi hj) hx hy (panel_lt hi' hj') hx' hy' heq
  obtain ⟨rfl, rfl⟩ := digits_inj hi hi' hpanel
  exact ⟨rfl, rfl⟩

/-- Every bit of the frame is the place of a display pixel: that of the panel's pixel there. -/
theorem pixAddr_surj {s : State} (h : cfgValid s = true) {o b : Nat} (ho : o < frameBytes s) (hb : b < 8) :
    ∃ x y, onDisplay s x y = true ∧ pixAddr s x y = { byte := o, bit := b } := by
  obtain ⟨p, x, y, hp, hx, hy, hplace⟩ := pixAddrPanel_surj h ho hb
  rw [numPanels, Nat.mul_comm] at hp
  obtain ⟨j, i, hj, hi, rfl⟩ := exists_digits hp
  exact ⟨_, _, onDisplay_iff.mpr ⟨digits_lt hi hx, digits_lt hj hy⟩, (pixAddr_of_digits hx hy).trans hplace⟩

/-- Settles O56: the mapping stays in the frame, and is injective and surjective onto its bits. -/
theorem pixelMappingIsBijective : Obligations.PixelMappingIsBijective := fun s h =>
  ⟨fun x y hd => ⟨pixAddr_byte_lt h hd, pixAddr_bit_lt s x y⟩, fun _ _ _ _ => pixAddr_inj h,
    fun _ _ => pixAddr_surj h⟩

end Sys2Proof.Machine
end

section
/-! SUPPORT. When the block runs, its tick count and its timing (43_refresh_sequencer.md R323 to R332): what a turn does to
them is said once, by `clock_turnEffect`. -/

namespace Sys2Proof.Machine

/-! ### The run flag, the tick count and the timing -/

/-- The run flag, the tick count and the timing. -/
def clock (s : State) : Bool × Word × Nat × Nat × Word := (s.run, s.tickcnt, s.div, s.period, s.achUs)

theorem clock_eq_iff {s t : State} : clock t = clock s
    ↔ t.run = s.run ∧ t.tickcnt = s.tickcnt ∧ t.div = s.div ∧ t.period = s.period ∧ t.achUs = s.achUs := by
  simp [clock]

@[simp] theorem clock_refuseTransaction (wr : Bool) (s : State) : clock (refuseTransaction wr s) = clock s := by
  cases wr <;> rfl

@[simp] theorem clock_memWrite (a n : Nat) (v : Word) (s : State) : clock (memWrite a n v s) = clock s := by
  rw [memWrite_eq]; rfl

@[simp] theorem clock_applyMux (k : Nat) (s : State) : clock (applyMux k s) = clock s := by
  simp [clock]

@[simp] theorem clock_shiftRow (k : Fin 2) (base : Nat) (s : State) : clock (shiftRow k base s) = clock s := by
  simp [clock]

@[simp] theorem clock_requestSwap (req copy : Bool) (s : State) : clock (requestSwap req copy s) = clock s := by
  unfold requestSwap
  split_ifs <;> rfl

/-- No sub-phase of a burst touches them. -/
@[simp] theorem clock_seqStep (s : State) : clock (seqStep s) = clock s := by
  obtain h | h | h | h := phase_cases s.phase
  · rw [seqStep_zero h]
    exact clock_applyMux _ _
  · rw [seqStep_one h, seqPhase1_eq]; rfl
  · rw [seqStep_two h, seqPhase2_eq]
    split_ifs <;> rfl
  · rw [seqStep_three h]
    exact clock_shiftRow _ _ s

/-- Of the instructions only a `CTRL` write touches them. -/
theorem clock_execEffect {s t : State} {i : Instr} (he : ExecEffect s i t) :
    clock t = clock s ∨ ∃ d, i = .wrCtrl d ∧ t = acknowledge (writeControl (d.getLsbD 0) (d.getLsbD 1) s) := by
  cases he with
  | ctrl d => exact .inr ⟨d, rfl, rfl⟩
  | misaligned _ wr => exact .inl (clock_refuseTransaction wr s)
  | swap d => exact .inl (clock_requestSwap _ _ s)
  | store _ n a d => exact .inl (clock_memWrite _ n d s)
  | _ => exact .inl rfl

/-- The turn is a tick: the timer's, at the end of the row period of a running block (43_refresh_sequencer.md R330). -/
def IsTick (τ : Turn) (s : State) : Prop := τ = .agent .timer ∧ s.run = true ∧ s.busy = false ∧ ¬(s.cnt + 1 < s.period)

/-- A turn touches them at a tick, in the host's `CTRL` write and at the reset input only. -/
theorem clock_turnEffect {s t : State} {τ : Turn} (hτ : τ ≠ .reset) (he : TurnEffect s τ t) :
    (¬IsTick τ s ∧ clock t = clock s) ∨ (IsTick τ s ∧ t = timerStep s)
      ∨ ∃ d q, HostPerforms τ s (.wrCtrl d)
        ∧ t = acknowledge (writeControl (d.getLsbD 0) (d.getLsbD 1) { s with hostq := q }) := by
  cases he with
  | reset => exact absurd rfl hτ
  | hold a hd =>
    refine .inl ⟨fun ⟨ha, hr, hb, _⟩ => ?_, rfl⟩
    obtain rfl := Turn.agent.inj ha
    simp [enabled, hr, hb] at hd
  | timer hr hb =>
    by_cases hc : s.cnt + 1 < s.period
    · rw [timerStep_count hc]
      exact .inl ⟨fun ⟨_, _, _, hdue⟩ => hdue hc, rfl⟩
    · exact .inr (.inl ⟨⟨rfl, hr, hb, hc⟩, rfl⟩)
  | seq => exact .inl ⟨nofun, clock_seqStep s⟩
  | copy => exact .inl ⟨nofun, rfl⟩
  | shift => rw [shiftStep_eq]; exact .inl ⟨nofun, rfl⟩
  | muxsm _ i hi => rw [muxsmStep_eq hi]; exact .inl ⟨nofun, rfl⟩
  | host w q i _ hb hq hd he =>
    obtain h | ⟨d, rfl, h⟩ := clock_execEffect he
    · exact .inl ⟨nofun, h⟩
    · exact .inr (.inr ⟨d, q, ⟨rfl, hb, w, q, hq, hd⟩, h⟩)
  | illegal w q => exact .inl ⟨nofun, clock_refuseTransaction _ { s with hostq := q }⟩

/-! ### `CTRL` writes, starts and ticks -/

/-- A start leaves the tick count as it is (43_refresh_sequencer.md R332). -/
@[simp] theorem start_tickcnt (s : State) : (start s).tickcnt = s.tickcnt := by
  unfold start
  split_ifs
  · exact acceptedStart_tickcnt s
  · rfl

/-- A refused start leaves the block stopped, an accepted one runs it (R323, R324). -/
theorem start_run_ne {s : State} (h : (start s).run ≠ s.run) : (start s).run = true := by
  unfold start at h ⊢
  split_ifs at h ⊢
  · exact acceptedStart_run s
  · exact absurd rfl h

/-- No `CTRL` write touches the tick count (R332). -/
theorem tickcnt_writeControl (en db : Bool) (s : State) : (writeControl en db s).tickcnt = s.tickcnt := by
  have he := writeControl_effect en db s
  generalize writeControl en db s = t at he ⊢
  cases he with
  | started => exact start_tickcnt s
  | startedDb => exact start_tickcnt (setDoubleBuffer db s)
  | stopped => rw [stop_eq]
  | stoppedDb => rw [stop_eq]; rfl
  | _ => rfl

/-- A `CTRL` write that changes the run flag sets it to `EN` (40_host_registers.md R203). -/
theorem run_writeControl {en db : Bool} {s : State} (h : (writeControl en db s).run ≠ s.run) :
    (writeControl en db s).run = en := by
  have he := writeControl_effect en db s
  generalize writeControl en db s = t at h he ⊢
  cases he with
  | started _ hen => exact hen ▸ start_run_ne h
  | startedDb _ hen => exact hen ▸ start_run_ne (s := setDoubleBuffer db s) h
  | stopped _ hen => exact hen ▸ stop_run s
  | stoppedDb _ hen => exact hen ▸ stop_run s
  | refused => exact absurd rfl h
  | kept => exact absurd rfl h
  | storedDb => exact absurd rfl h

/-- A `CTRL` write to a running block leaves the timing as it is: a start computes it, and none is made. -/
theorem timing_writeControl {s : State} (hr : s.run = true) (en db : Bool) :
    (writeControl en db s).div = s.div ∧ (writeControl en db s).period = s.period
      ∧ (writeControl en db s).achUs = s.achUs := by
  have he := writeControl_effect en db s
  generalize writeControl en db s = t at he ⊢
  cases he with
  | started hstopped => exact flag_absurd hr hstopped
  | startedDb hstopped => exact flag_absurd hr hstopped
  | stopped => rw [stop_eq]; exact ⟨rfl, rfl, rfl⟩
  | stoppedDb => rw [stop_eq]; exact ⟨rfl, rfl, rfl⟩
  | _ => exact ⟨rfl, rfl, rfl⟩

/-- A tick counts, keeps the block running and changes the timing by the pending reload only (43_refresh_sequencer.md R330,
R331). -/
theorem timerStep_of_due {s : State} (hdue : ¬(s.cnt + 1 < s.period)) :
    (timerStep s).run = s.run ∧ (timerStep s).tickcnt = s.tickcnt + 1#32
      ∧ (s.reloadPending = false →
        (timerStep s).div = s.div ∧ (timerStep s).period = s.period ∧ (timerStep s).achUs = s.achUs) := by
  cases hp : s.reloadPending with
  | false => rw [timerStep_tick hdue hp]; exact ⟨rfl, rfl, fun _ => ⟨rfl, rfl, rfl⟩⟩
  | true => rw [timerStep_reload hdue hp]; exact ⟨rfl, rfl, nofun⟩

/-- Settles O25: the tick count and the timing in each of the cases of `clock_turnEffect`. -/
theorem tickCountChangesOnlyAtTicks : Obligations.TickCountChangesOnlyAtTicks := by
  intro τ s t hτ ht
  obtain ⟨hno, hclock⟩ | ⟨htick, rfl⟩ | ⟨d, q, ⟨rfl, -⟩, rfl⟩ := clock_turnEffect hτ (takeTurn_effect ht)
  · obtain ⟨-, hcount, htiming⟩ := clock_eq_iff.mp hclock
    exact ⟨(absurd · hno), fun _ => hcount, fun _ _ => htiming⟩
  · obtain ⟨-, hcount, htiming⟩ := timerStep_of_due htick.2.2.2
    exact ⟨fun _ => hcount, absurd htick, fun _ hreload =>
      htiming (Bool.eq_false_of_not_eq_true fun hp => hreload ⟨htick, hp⟩)⟩
  · exact ⟨nofun, fun _ => tickcnt_writeControl _ _ _, fun hr _ => timing_writeControl (s := { s with hostq := q }) hr _ _⟩

/-- The run flag changes at the reset input, or becomes `EN` in the host's `CTRL` write (R325). -/
theorem run_turnEffect {s t : State} {τ : Turn} (he : TurnEffect s τ t) (h : t.run ≠ s.run) :
    (τ = .reset ∧ t.run = false) ∨ ∃ d, HostPerforms τ s (.wrCtrl d) ∧ t.run = d.getLsbD 0 := by
  by_cases hτ : τ = .reset
  · subst hτ
    cases he with
    | reset => exact .inl ⟨rfl, rfl⟩
  · obtain ⟨-, hclock⟩ | ⟨⟨-, -, -, hdue⟩, rfl⟩ | ⟨d, q, hhost, rfl⟩ := clock_turnEffect hτ he
    · exact absurd (clock_eq_iff.mp hclock).1 h
    · exact absurd (timerStep_of_due hdue).1 h
    · exact .inr ⟨d, hhost, run_writeControl (s := { s with hostq := q }) h⟩

/-- Settles O42: a turn that changes the run flag is the reset input or a `CTRL` write. -/
theorem runChangesOnlyByControl : Obligations.RunChangesOnlyByControl := by
  refine ⟨rfl, fun τ s t ht => ⟨fun hs ht' => ?starts, fun hs ht' => ?stops⟩⟩
  case starts =>
    obtain ⟨-, hoff⟩ | ⟨d, hhost, hen⟩ := run_turnEffect (takeTurn_effect ht) (by simp [hs, ht'])
    · exact flag_absurd ht' hoff
    · exact ⟨d, hhost, hen.symm.trans ht'⟩
  case stops =>
    obtain ⟨hreset, -⟩ | ⟨d, hhost, hen⟩ := run_turnEffect (takeTurn_effect ht) (by simp [hs, ht'])
    · exact .inl hreset
    · exact .inr ⟨d, hhost, hen.symm.trans ht'⟩

end Sys2Proof.Machine
end

section
/-! SUPPORT. The row timer and the four sub-phases of a burst (43_refresh_sequencer.md R330 to R350): the turn that takes each
of them, and the whole burst under REG. -/

namespace Sys2Proof.Machine

/-! ### The turns of the timer and the sequencer -/

/-- The turn of an agent that is enabled is its step (00_scope.md R17). -/
theorem takeTurn_of_enabled {a : Agent} {s : State} (h : enabled a s = true) : takeTurn (.agent a) s = agentStep a s := by
  simp [takeTurn, h]

/-- Between bursts of a running block the timer steps (43_refresh_sequencer.md R321). -/
theorem takeTurn_timer {s : State} (hr : s.run = true) (hb : s.busy = false) :
    takeTurn (.agent .timer) s = .next (timerStep s) :=
  takeTurn_of_enabled (by simp [enabled, hr, hb])

/-- In a burst the sequencer steps where it need not wait (R321). -/
theorem takeTurn_seq {s : State} (hr : s.run = true) (hb : s.busy = true) (hq : seqReady s = true) :
    takeTurn (.agent .seq) s = .next (seqStep s) :=
  takeTurn_of_enabled (by simp [enabled, hr, hb, hq])

/-- Only phase 1 waits (R343). -/
theorem seqReady_of_phase {s : State} (h : s.phase ≠ 1) : seqReady s = true := (seqReady_iff s).mpr (absurd · h)

theorem takeTurn_seqPhase0 {s : State} (hr : s.run = true) (hb : s.busy = true) (hp : s.phase = 0) :
    takeTurn (.agent .seq) s = .next (seqPhase0 s) :=
  seqStep_zero hp ▸ takeTurn_seq hr hb (seqReady_of_phase (by simp [hp]))

theorem takeTurn_seqPhase2 {s : State} (hr : s.run = true) (hb : s.busy = true) (hp : s.phase = 2) :
    takeTurn (.agent .seq) s = .next (seqPhase2 s) :=
  seqStep_two hp ▸ takeTurn_seq hr hb (seqReady_of_phase (by simp [hp]))

theorem takeTurn_seqPhase3 {s : State} (hr : s.run = true) (hb : s.busy = true) (hp : s.phase = 3) :
    takeTurn (.agent .seq) s = .next (seqPhase3 s) :=
  seqStep_three hp ▸ takeTurn_seq hr hb (seqReady_of_phase (by simp [hp]))

/-- Phase 1 is taken under REG, and under PIO once the lines are driven and the row is shifted (R343). -/
theorem takeTurn_seqPhase1 {s : State} (hr : s.run = true) (hb : s.busy = true) (hp : s.phase = 1)
    (hready : s.par.backend = .reg ∨ (s.muxPend = none ∧ s.shRem = 0)) :
    takeTurn (.agent .seq) s = .next (seqPhase1 s) := by
  have hq : seqReady s = true := (seqReady_iff s).mpr fun _ hpio =>
    hready.resolve_left fun hreg => nomatch hreg.symm.trans hpio
  exact seqStep_one hp ▸ takeTurn_seq hr hb hq

/-! ### The row timer -/

/-- The achieved row period fits its register (45_backends.md R420). -/
theorem toNat_computeTiming_achUs (f w divMax us : Nat) :
    (BitVec.ofNat 32 (computeTiming f w divMax us).achUs).toNat = (computeTiming f w divMax us).achUs :=
  toNat_word_of_lt (Nat.lt_succ_of_le (min_le_left _ _))

/-- Settles O24: the timer's three cases. -/
theorem timerStepCountsOrTicks : Obligations.TimerStepCountsOrTicks := by
  intro s hr hb
  rw [takeTurn_timer hr hb]
  exact ⟨fun h => congrArg _ (timerStep_count h), fun h hp => congrArg _ (timerStep_tick h hp),
    fun h hp => ⟨_, toNat_computeTiming_achUs _ _ _ _, congrArg _ (timerStep_reload h hp)⟩⟩

/-! ### The light window -/

@[simp] theorem seqPhase0_onCnt (s : State) : (seqPhase0 s).onCnt = lightCounts s := applyMux_onCnt _ _

/-- Below full brightness the window is shorter than the row period (43_refresh_sequencer.md R341). -/
theorem lightCounts_lt_period {s : State} (hb : s.bright ≠ 255#8) (hp : 0 < s.period) : lightCounts s < s.period := by
  have hbright : s.bright.toNat < 255 :=
    lt_of_le_of_ne (Nat.le_of_lt_succ s.bright.isLt) fun h => hb (BitVec.eq_of_toNat_eq h)
  exact (Nat.div_lt_iff_lt_mul (by decide)).mpr (Nat.mul_lt_mul_of_pos_left hbright hp)

/-- Settles O27: phase 0 stores the window's counts, which the brightness scales. -/
theorem lightWindowFollowsBrightness : Obligations.LightWindowFollowsBrightness := by
  intro s t hr hb hp ht
  obtain rfl := Host.Outcome.next.inj ((takeTurn_seqPhase0 hr hb hp).symm.trans ht)
  rw [seqPhase0_onCnt]
  refine ⟨rfl, fun h => ?off, fun h => ?full, lightCounts_lt_period, fun hperiod h => ?half⟩
  case off => simp [lightCounts, h]
  case full => simp [lightCounts, h]
  case half => simp [lightCounts, h, hperiod]

/-! ### The sub-phases -/

/-- An entry the table has, as the mux drive reads it (10_state.md R44). -/
theorem muxEntry_of_getElem? {t : MuxTab} {i : Nat} {w : Word} (h : t[i]? = some w) : muxEntry t i = w := by
  have hi : i < 33 := by
    by_contra hge
    rw [Vector.getElem?_eq_none (Nat.le_of_not_lt hge)] at h
    cases h
  exact Option.some.inj ((getElem?_eq_muxEntry t hi).symm.trans h)

/-- Settles O29: phase 0 under each backend. -/
theorem phaseZeroSelectsRow : Obligations.PhaseZeroSelectsRow := by
  intro s setMask clrMask hr hb hp hset hclr
  have hlevels : appliedLevels s s.nm = (s.muxLvl &&& ~~~clrMask) ||| setMask := by
    rw [appliedLevels, muxEntry_of_getElem? hset, muxEntry_of_getElem? hclr]
  rw [takeTurn_seqPhase0 hr hb hp]
  refine ⟨fun hreg => ?_, fun hpio => ?_⟩
  · rw [seqPhase0_reg hreg, hlevels]
    rfl
  · rw [seqPhase0_pio hpio, muxEntry_of_getElem? hset]
    rfl

/-- Settles O30: phase 1 is taken, or waits under PIO. -/
theorem phaseOneLatches : Obligations.PhaseOneLatches := by
  intro s hr hb hp
  refine ⟨fun hready => ?latches, fun hpio hwait => takeTurn_of_disabled ?waits⟩
  case latches => rw [takeTurn_seqPhase1 hr hb hp hready, seqPhase1_eq]
  case waits =>
    have hq : ¬seqReady s = true := fun hq => by
      obtain ⟨hpend, hrem⟩ := (seqReady_iff s).mp hq hp hpio
      exact hwait.elim (· hpend) (· hrem)
    simp [enabled, hq]

/-- Settles O31: phase 2 away from the boundary, and at it without and with a swap pending. -/
theorem phaseTwoSwapsAtBoundary : Obligations.PhaseTwoSwapsAtBoundary := by
  intro s hr hb hp
  rw [takeTurn_seqPhase2 hr hb hp, seqPhase2_eq]
  refine ⟨fun hrow => ?_, fun hrow hswap => ?_, fun hrow hswap => ?_⟩
  · rw [if_neg hrow]
  · rw [if_pos hrow, hswap]
    rfl
  · rw [if_pos hrow, if_pos hswap]

/-- Settles O32: phase 3 under each backend; a row shifted whole fills the panel's register. -/
theorem phaseThreeAdvances : Obligations.PhaseThreeAdvances := by
  intro s hr hb hp
  refine ⟨_, takeTurn_seqPhase3 hr hb hp, fun hreg => ?reg, fun hpio => ?pio⟩
  case pio => rw [seqPhase3_pio hpio]; rfl
  case reg =>
    intro out
    rw [seqPhase3_reg hreg]
    refine ⟨fun hlen => shiftIn_full _ _ (hlen.trans (rowLevels_length _ _ _ _).symm), fun d hd => ?_, rfl⟩
    have hne : out.isEmpty = false := List.isEmpty_eq_false_iff.mpr fun h => by simp [h] at hd
    exact ⟨congrArg (Option.getD · s.dataLvl) hd, (congrArg (s.clkLvl && ·) hne).trans (Bool.and_false _)⟩

/-! ### The phase counter -/

/-- A sub-phase moves the phase counter to the next (43_refresh_sequencer.md R350). -/
theorem seqStep_phase (s : State) : (seqStep s).phase = s.phase + 1 := by
  obtain hp | hp | hp | hp := phase_cases s.phase
  · rw [seqStep_zero hp, hp]
    rfl
  · rw [seqStep_one hp, seqPhase1_eq, hp]
    rfl
  · rw [seqStep_two hp, seqPhase2_eq, hp]
    split_ifs <;> rfl
  · rw [seqStep_three hp, hp]
    rfl

/-- The one after phase 3 ends the burst (R348, R350). -/
theorem seqStep_busy {s : State} (hb : s.busy = true) : (seqStep s).busy = true ↔ s.phase ≠ 3 := by
  obtain hp | hp | hp | hp := phase_cases s.phase
  · rw [seqStep_zero hp, hp, show (seqPhase0 s).busy = s.busy from applyMux_busy _ _]
    simp [hb]
  · rw [seqStep_one hp, seqPhase1_eq, hp]
    simp [hb]
  · have hbusy : (seqPhase2 s).busy = s.busy := by
      rw [seqPhase2_eq]
      split_ifs <;> rfl
    rw [seqStep_two hp, hp, hbusy]
    simp [hb]
  · rw [seqStep_three hp, hp]
    simp [seqPhase3]

/-- Settles O33: in a burst the timer and the host hold, and COPY, SHIFT and MUXSM do not touch the counter. -/
theorem phasesAreCyclic : Obligations.PhasesAreCyclic := by
  intro τ s t hτ hb ht
  cases takeTurn_effect ht with
  | hold a hd => exact ⟨fun h he => flag_absurd (Turn.agent.inj h ▸ he) hd, fun _ => ⟨rfl, hb⟩⟩
  | reset => exact absurd rfl hτ
  | timer _ hidle => exact flag_absurd hb hidle
  | seq hr _ hq =>
    have he : enabled .seq s = true := by simp [enabled, hr, hb, hq]
    exact ⟨fun _ _ => ⟨seqStep_phase s, seqStep_busy hb⟩, fun h => absurd ⟨rfl, he⟩ h⟩
  | copy => exact ⟨nofun, fun _ => ⟨rfl, hb⟩⟩
  | shift => rw [shiftStep_eq]; exact ⟨nofun, fun _ => ⟨rfl, hb⟩⟩
  | muxsm _ i hi => rw [muxsmStep_eq hi]; exact ⟨nofun, fun _ => ⟨rfl, hb⟩⟩
  | host _ _ _ _ hidle => exact flag_absurd hb hidle
  | illegal _ _ _ hidle => exact flag_absurd hb hidle

/-! ### A whole burst under REG -/

/-- The fields phase 2 may change, and that it changes the front slot exactly at the boundary with a swap pending
(43_refresh_sequencer.md R344, 44_swap_arbiter.md R383). -/
theorem seqPhase2_fields {s : State} (hdb : s.swapReq = true → s.db = true) :
    ∃ frames front req copyReq copyBusy copyIdx,
      seqPhase2 s = { s with
          framecnt := frames, front := front, swapReq := req, copyReq := copyReq, copyBusy := copyBusy, copyIdx := copyIdx
          phase := 3 }
        ∧ (fslot (seqPhase2 s) ≠ fslot s ↔ s.swapReq = true ∧ s.row = s.nrows.toNat - 1) := by
  have hother : ∀ k : Fin 2, 1 - k ≠ k := by decide
  rw [seqPhase2_eq]
  by_cases hrow : s.row = s.nrows.toNat - 1
  · cases hswap : s.swapReq with
    | true =>
      rw [if_pos hrow, if_pos rfl]
      exact ⟨_, _, _, _, _, _, rfl, by simp [fslot, hdb hswap, hother, hrow]⟩
    | false =>
      rw [if_pos hrow, if_neg Bool.false_ne_true]
      exact ⟨_, _, _, _, _, _, rfl, by simp [fslot]⟩
  · rw [if_neg hrow]
    exact ⟨_, _, _, _, _, _, rfl, by simp [fslot, hrow]⟩

theorem afterTurn_of_next {τ : Turn} {s t : State} (h : takeTurn τ s = .next t) : afterTurn τ s = t :=
  Host.Outcome.next.inj ((takeTurn_eq_afterTurn τ s).symm.trans h)

/-- Under REG a turn of the sequencer in a burst takes its sub-phase without a wait, and goes on to the next but after the last
(43_refresh_sequencer.md R343, R350). -/
theorem afterTurn_seq_reg {s : State} (hreg : s.par.backend = .reg) (hr : s.run = true) (hb : s.busy = true) :
    afterTurn (.agent .seq) s = seqStep s ∧ (seqStep s).par.backend = .reg ∧ (seqStep s).run = true
      ∧ (s.phase ≠ 3 → (seqStep s).busy = true) := by
  have hq : seqReady s = true := (seqReady_iff s).mpr fun _ hpio => nomatch hreg.symm.trans hpio
  obtain ⟨hpar, -⟩ := outside_eq_iff.mp (outside_seqStep s)
  obtain ⟨hrun, -⟩ := clock_eq_iff.mp (clock_seqStep s)
  exact ⟨afterTurn_of_next (takeTurn_seq hr hb hq), hpar ▸ hreg, hrun.trans hr, (seqStep_busy hb).mpr⟩

/-- Under REG four turns of the sequencer are the burst: its four sub-phases, one after the other (R350). -/
theorem afterTurns_regBurst {s : State} (hreg : s.par.backend = .reg) (hr : s.run = true) (hb : s.busy = true)
    (hp : s.phase = 0) : afterTurns [.agent .seq, .agent .seq, .agent .seq, .agent .seq] s
      = seqPhase3 (seqPhase2 (seqPhase1 (seqPhase0 s))) := by
  obtain ⟨h0, hreg, hr, hb⟩ := afterTurn_seq_reg hreg hr hb
  have hp1 : (seqStep s).phase = 1 := (seqStep_phase s).trans (by rw [hp]; rfl)
  obtain ⟨h1, hreg, hr, hb⟩ := afterTurn_seq_reg hreg hr (hb (by simp [hp]))
  have hp2 : (seqStep (seqStep s)).phase = 2 := (seqStep_phase _).trans (by rw [hp1]; rfl)
  obtain ⟨h2, hreg, hr, hb⟩ := afterTurn_seq_reg hreg hr (hb (by simp [hp1]))
  have hp3 : (seqStep (seqStep (seqStep s))).phase = 3 := (seqStep_phase _).trans (by rw [hp2]; rfl)
  obtain ⟨h3, -⟩ := afterTurn_seq_reg hreg hr (hb (by simp [hp2]))
  calc afterTurns [.agent .seq, .agent .seq, .agent .seq, .agent .seq] s
      = afterTurn (.agent .seq) (afterTurn (.agent .seq) (afterTurn (.agent .seq) (afterTurn (.agent .seq) s))) := rfl
    _ = seqStep (seqStep (seqStep (seqStep s))) := by rw [h0, h1, h2, h3]
    _ = seqPhase3 (seqPhase2 (seqPhase1 (seqPhase0 s))) := by
      rw [seqStep_three hp3, seqStep_two hp2, seqStep_one hp1, seqStep_zero hp]

/-- Phase 0 under REG drives the lines to the levels of the burst's row, which the lookahead index names (10_state.md R50,
41_mux_table.md R254). -/
theorem Invariant.appliedLevels_eq {s : State} (h : Invariant s) (hreg : s.par.backend = .reg) (hr : s.run = true) :
    appliedLevels s s.nm = muxLevel s s.row &&& lineMask s := by
  obtain ⟨-, -, hnm, -⟩ := h.spec.running hr
  rw [Machine.appliedLevels_eq hreg hnm (h.coherent.unusedLines hr) (h.coherent.table hr s.nm h.range.nm),
    h.coherent.lookahead hr]

/-- Up to phase 1 a REG burst closes the window, drives the lines, latches and opens the next window
(43_refresh_sequencer.md R340, R342). -/
theorem seqPhases01_reg {s : State} (hreg : s.par.backend = .reg) : seqPhase1 (seqPhase0 s) = { s with
    trace := s.trace ++ [.oeOff, .muxSet (appliedLevels s s.nm), .latch, .oeOn (lightCounts s)]
    muxLvl := appliedLevels s s.nm, onCnt := lightCounts s
    latLvl := false, panelLr := s.panelSr, oeArmed := true, phase := 2 } := by
  rw [seqPhase0_reg hreg, seqPhase1_eq]
  simp

/-- Settles O34: the four sub-phases composed. -/
theorem regBurst : Obligations.RegBurst := by
  intro s h hreg hr hb hp
  obtain ⟨hc, hrow, -⟩ := h.spec.running hr
  obtain ⟨hsr, -⟩ := h.coherent.panel hr
  have hopened := seqPhases01_reg hreg
  rw [h.appliedLevels_eq hreg hr] at hopened
  obtain ⟨frames, front, req, copyReq, copyBusy, copyIdx, hboundary, hslot⟩ :=
    seqPhase2_fields (s := seqPhase1 (seqPhase0 s)) (by rw [hopened]; exact fun hswap => (h.spec.swapPending hswap).1)
  have hended := seqPhase3_reg (s := seqPhase2 (seqPhase1 (seqPhase0 s))) (by rw [hboundary, hopened]; exact hreg)
  rw [hboundary, hopened] at hended hslot
  rw [afterTurns_regBurst hreg hr hb hp, hboundary, hopened, hended]
  refine ⟨rfl, rfl, rfl, rfl, ?shifted, selrow_muxLevel hc hrow, hslot⟩
  exact shiftIn_full _ _ (hsr.trans (rowLevels_length _ _ _ _).symm)

end Sys2Proof.Machine
end

section
/-! SUPPORT. The `CTRL` writes that start or stop the block (40_host_registers.md R203, 43_refresh_sequencer.md R322 to R326). -/

namespace Sys2Proof.Machine

/-! ### `DB` in the same write -/

/-- The double-buffer flag takes the value `db`; a change to 0 forces the front index to 0 (40_host_registers.md R203). -/
def storeDb (db : Bool) (s : State) : State :=
  { s with db := db, front := if db = s.db ∨ db = true then s.front else 0 }

theorem storeDb_same {db : Bool} {s : State} (h : db = s.db) : storeDb db s = s := by
  simp [storeDb, h]

theorem storeDb_changed {db : Bool} {s : State} (h : db ≠ s.db) : storeDb db s = setDoubleBuffer db s := by
  simp [storeDb, setDoubleBuffer, h]

/-- `EN = 1` while stopped starts the block with the `DB` of the write (R203). -/
theorem controlEffect_start {en db : Bool} {s : State} (hr : s.run = false) (he : en = true)
    (hdb : db = s.db ∨ s.copyBusy = false) : ControlEffect en db s (start (storeDb db s)) := by
  by_cases hd : db = s.db
  · rw [storeDb_same hd]
    exact .started hr he hd
  · rw [storeDb_changed hd]
    exact .startedDb hr he hd (hdb.resolve_left hd)

/-- `EN = 0` while running stops the block and then stores the `DB` of the write (R203). -/
theorem controlEffect_stop {en db : Bool} {s : State} (hr : s.run = true) (he : en = false)
    (hdb : db = s.db ∨ (stop s).copyBusy = false) : ControlEffect en db s (storeDb db (stop s)) := by
  have hstop : (stop s).db = s.db := by rw [stop_eq]
  by_cases hd : db = s.db
  · rw [storeDb_same (hd.trans hstop.symm)]
    exact .stopped hr he hd
  · rw [storeDb_changed (hstop ▸ hd)]
    exact .stoppedDb hr he hd (hdb.resolve_left hd)

/-! ### The stop -/

/-- A copy runs after a stop where one ran before or the pending swap asked for one (43_refresh_sequencer.md R326,
44_swap_arbiter.md R385). -/
theorem stop_copyBusy (s : State) : (stop s).copyBusy = (s.copyBusy || (s.swapReq && s.copyReq)) := by rw [stop_eq]

/-- Settles O23: a refused `DB` change, or the stop with the `DB` of the write. -/
theorem stopClearsTheRun : Obligations.StopClearsTheRun := by
  intro s d hr he copying
  refine ⟨fun hd hc => ?refused, fun hdb => ?stopped⟩
  case refused => exact exec_wrCtrl_of_effect (.refused hd (.inr (.inl ⟨hr, he, (stop_copyBusy s).trans hc⟩)))
  case stopped =>
    rw [exec_wrCtrl_of_effect (controlEffect_stop hr he (hdb.imp_right (stop_copyBusy s).trans)), storeDb, stop_eq]

/-! ### The refused start -/

theorem start_refused {s : State} (h : cfgValid s = false) : start s = raiseConfigError s := by
  simp [start, h]

theorem start_accepted {s : State} (h : cfgValid s = true) : start s = acceptedStart s := by
  simp [start, h]

/-- Five rows are no power of two, and three lines are not one for each of them (43_refresh_sequencer.md R322). -/
theorem cfgValid_five_rows_three_lines {s : State} (hn : s.nrows = 5#6) (hm : s.muxcnt = 3#6) : cfgValid s = false := by
  refine Bool.eq_false_of_not_eq_true fun hc => ?_
  obtain ⟨-, -, -, -, -, -, -, -, -, hmux⟩ := (cfgValid_iff s).mp hc
  rw [hn, hm] at hmux
  revert hmux
  decide

/-- Settles O21: the refused start, and the clauses of a valid configuration. -/
theorem refusedStart : Obligations.RefusedStart := by
  refine ⟨fun s d hr he hc => ⟨fun hd => ?same, fun hd hcopy => ?changed⟩, cfgValid_iff,
    fun _ => cfgValid_five_rows_three_lines, by decide⟩
  case same => rw [exec_wrCtrl_of_effect (.started hr he hd), start_refused hc]; rfl
  case changed =>
    rw [exec_wrCtrl_of_effect (.startedDb hr he hd hcopy), start_refused (s := setDoubleBuffer _ s) hc]
    rfl

/-! ### The accepted start -/

theorem shiftRow_reg {s : State} (h : s.par.backend = .reg) (k : Fin 2) (base : Nat) : shiftRow k base s = { s with
    trace := s.trace ++ (rowLevels k base (rowBytes s) s).map .bit
    dataLvl := (rowLevels k base (rowBytes s) s).getLast?.getD s.dataLvl
    clkLvl := s.clkLvl && (rowLevels k base (rowBytes s) s).isEmpty
    panelSr := shiftIn (rowLevels k base (rowBytes s) s) s.panelSr } := by
  simp only [shiftRow, h, shiftRowReg_eq]

theorem shiftRow_pio {s : State} (h : s.par.backend = .pio) (k : Fin 2) (base : Nat) : shiftRow k base s = { s with
    shSlot := k, shSrc := base, shRem := rowBytes s } := by
  simp only [shiftRow, h, shiftRowPio]

/-- The panel's registers and the draws as a start makes them: of the chain's length, and kept where they have it already
(45_backends.md R455). -/
structure PanelFits (s : State) (sr lr : List Bool) (draws : Nat) : Prop where
  shift : sr.length = chainBits s
  latch : lr.length = chainBits s
  kept : s.panelSr.length = chainBits s → s.panelLr.length = chainBits s → sr = s.panelSr ∧ lr = s.panelLr ∧ draws = s.draws

theorem exists_panelFits (s : State) : ∃ sr lr draws, PanelFits s sr lr draws
    ∧ fitPanel s = { s with panelSr := sr, panelLr := lr, draws := draws } := by
  by_cases hfit : s.panelSr.length = chainBits s ∧ s.panelLr.length = chainBits s
  · exact ⟨_, _, _, ⟨hfit.1, hfit.2, fun _ _ => ⟨rfl, rfl, rfl⟩⟩, if_pos hfit⟩
  · obtain ⟨sr, lr, draws, hsr, hlr, heq⟩ := fitPanel_fits s
    exact ⟨sr, lr, draws, ⟨hsr, hlr, fun h1 h2 => absurd ⟨h1, h2⟩ hfit⟩, heq⟩

/-- The state in which an accepted start shifts row 0: the timing computed, the table `set` and `clr`, the sequencer cleared,
every mux line at 0, the panel's registers `sr` and `lr` (43_refresh_sequencer.md R323). -/
def startState (set clr : MuxTab) (sr lr : List Bool) (draws : Nat) (s : State) : State :=
  { s with
    run := true
    div := (computeTiming s.par.fTimerHz s.par.timerWidth s.par.divMax s.scanUs.toNat).div
    period := (computeTiming s.par.fTimerHz s.par.timerWidth s.par.divMax s.scanUs.toNat).period
    achUs := BitVec.ofNat 32 (computeTiming s.par.fTimerHz s.par.timerWidth s.par.divMax s.scanUs.toNat).achUs
    muxset := set, muxclr := clr
    reloadPending := false, row := 0, nm := 0, phase := 0, busy := false, cnt := 0
    oeArmed := false, onCnt := 0, muxPend := none
    muxLvl := 0#32, trace := s.trace ++ [.muxSet 0#32]
    panelSr := sr, panelLr := lr, draws := draws }

/-- An accepted start is the shift of row 0 of the front slot from `startState` (43_refresh_sequencer.md R323). -/
theorem acceptedStart_eq (s : State) : ∃ set clr sr lr draws,
    (∀ i, i ≤ 32 → muxEntry set i = (tableEntry s i).1 ∧ muxEntry clr i = (tableEntry s i).2) ∧ PanelFits s sr lr draws
      ∧ acceptedStart s = shiftRow (fslot s) 0 (startState set clr sr lr draws s) := by
  obtain ⟨set, clr, hgen, htable⟩ := exists_generateMuxTable_eq s
  obtain ⟨sr, lr, draws, hfits, hfit⟩ := exists_panelFits (driveMux 0#32 (clearSequencer (loadTiming (generateMuxTable s))))
  refine ⟨set, clr, sr, lr, draws, htable, ?fits, ?eq⟩
  case fits =>
    rw [hgen] at hfits
    exact ⟨hfits.shift, hfits.latch, hfits.kept⟩
  case eq =>
    rw [acceptedStart, hfit, preloadAndRun_eq, hgen]
    rfl

/-- A row of a valid configuration has a last bit. -/
theorem rowLevels_ne_nil {s : State} (hc : cfgValid s = true) (k : Fin 2) (base : Nat) :
    rowLevels k base (rowBytes s) s ≠ [] := by
  rw [← List.length_pos_iff, rowLevels_length]
  exact chainBits_pos hc

/-- The data line and the shift clock after bits have been shifted out. -/
theorem shifted_lines {ds : List Bool} (h : ds ≠ []) (d clk : Bool) :
    ds.getLast? = some (ds.getLast?.getD d) ∧ (clk && ds.isEmpty) = false := by
  simp [List.getLast?_eq_some_getLast h, h]

/-- Settles O22: the start with the `DB` of the write, whose last step is the shift of row 0 under each backend. -/
theorem acceptedStart_completes : Obligations.AcceptedStart := by
  intro s d hr he hc hdb
  obtain ⟨set, clr, sr, lr, draws, htable, hfits, heq⟩ := acceptedStart_eq (storeDb (d.getLsbD 1) s)
  have hexec := exec_wrCtrl_of_effect (controlEffect_start hr he hdb)
  rw [start_accepted (s := storeDb _ s) hc, heq] at hexec
  have hachUs := toNat_computeTiming_achUs s.par.fTimerHz s.par.timerWidth s.par.divMax s.scanUs.toNat
  have hkept := fun hsr hlr => (hfits.kept hsr hlr).2
  cases hp : s.par.backend with
  | reg =>
    rw [shiftRow_reg (s := startState _ _ _ _ _ (storeDb _ s)) hp] at hexec
    have hlength := rowLevels_length (fslot (storeDb (d.getLsbD 1) s)) 0 (rowBytes s) s
    have hshifted := shiftIn_full _ sr (hfits.shift.trans hlength.symm)
    obtain ⟨hdata, hclk⟩ := shifted_lines (rowLevels_ne_nil hc (fslot (storeDb (d.getLsbD 1) s)) 0) s.dataLvl s.clkLvl
    exact ⟨_, hexec, rfl, rfl, ⟨rfl, rfl, hachUs⟩, htable,
      ⟨fun _ => ⟨List.append_assoc _ _ _, hshifted, hdata, hclk, rfl, rfl, rfl⟩, nofun⟩,
      (congrArg List.length hshifted).trans hlength, hfits.latch, hkept, rfl⟩
  | pio =>
    rw [shiftRow_pio (s := startState _ _ _ _ _ (storeDb _ s)) hp] at hexec
    exact ⟨_, hexec, rfl, rfl, ⟨rfl, rfl, hachUs⟩, htable,
      ⟨nofun, fun _ => ⟨rfl, rfl, rfl, rfl, rfl, rfl, fun hsr hlr => (hfits.kept hsr hlr).1⟩⟩,
      hfits.shift, hfits.latch, hkept, rfl⟩

end Sys2Proof.Machine
end

section
/-! SUPPORT. Every burst ends (43_refresh_sequencer.md R343, R351). `burstLeft` bounds the steps a burst still takes: while it
lasts no turn makes it larger, and weak fairness gives a turn to an agent whose step makes it smaller. -/

namespace Sys2Proof.Machine

/-! ### The invariants along a run -/

theorem turnEffect_invariant {s t : State} {τ : Turn} (h : Invariant s) (he : TurnEffect s τ t) : Invariant t :=
  ⟨h.spec.turnEffect he, h.turnEffect_inRange he, h.turnEffect_coherent he⟩

theorem afterTurn_effect (τ : Turn) (s : State) : TurnEffect s τ (afterTurn τ s) :=
  takeTurn_effect (takeTurn_eq_afterTurn τ s)

/-- Every state of a run from a state with the invariants has them. -/
theorem runOf_invariant {s : State} (h : Invariant s) (sched : Nat → Turn) (n : Nat) : Invariant (runOf sched s n) := by
  induction n with
  | zero => exact h
  | succ n ih => exact turnEffect_invariant ih (afterTurn_effect _ _)

/-- In a burst the block runs (10_state.md R78(c)). -/
theorem SpecInvariant.run_of_busy {s : State} (h : SpecInvariant s) (hb : s.busy = true) : s.run = true := by
  by_contra hr
  exact flag_absurd hb (h.stopped (Bool.eq_false_of_not_eq_true hr)).1

/-! ### What is left of a burst -/

/-- A bound on the steps the burst still takes: a byte shifted and a row driven count 1, and a sub-phase 2, since phase 0 may
hand on a row to drive. -/
def burstLeft (s : State) : Nat := 2 * (4 - s.phase.val) + s.shRem + s.muxPend.toList.length

/-- What the enabling of SEQ, SHIFT and MUXSM depends on (43_refresh_sequencer.md R321). -/
def burstView (s : State) : Bool × Bool × Fin 4 × Params × Option Nat × Nat :=
  (s.run, s.busy, s.phase, s.par, s.muxPend, s.shRem)

theorem burstView_eq_iff {s t : State} : burstView t = burstView s ↔ t.run = s.run ∧ t.busy = s.busy ∧ t.phase = s.phase
    ∧ t.par = s.par ∧ t.muxPend = s.muxPend ∧ t.shRem = s.shRem := by
  simp [burstView]

theorem burstLeft_congr {s t : State} (h : burstView t = burstView s) : burstLeft t = burstLeft s := by
  obtain ⟨-, -, hphase, -, hpend, hrem⟩ := burstView_eq_iff.mp h
  rw [burstLeft, burstLeft, hphase, hpend, hrem]

/-- The agents that bring a burst to its end. -/
def MovesBurst (a : Agent) : Prop := a = .seq ∨ a = .shift ∨ a = .muxsm

theorem enabled_congr {s t : State} {a : Agent} (ha : MovesBurst a) (h : burstView t = burstView s) :
    enabled a t = enabled a s := by
  obtain ⟨hrun, hbusy, hphase, hpar, hpend, hrem⟩ := burstView_eq_iff.mp h
  obtain rfl | rfl | rfl := ha
  · simp only [enabled, seqReady, hrun, hbusy, hphase, hpar, hpend, hrem]
  · simp only [enabled, hpar, hrem]
  · simp only [enabled, hpar, hpend]

/-- In a burst one of them is enabled: the sequencer, or what it waits for (43_refresh_sequencer.md R343). -/
theorem exists_enabled_movesBurst {s : State} (hr : s.run = true) (hb : s.busy = true) :
    ∃ a, MovesBurst a ∧ enabled a s = true := by
  by_cases hq : seqReady s = true
  · exact ⟨.seq, .inl rfl, by simp [enabled, hr, hb, hq]⟩
  · rw [seqReady_iff] at hq
    push Not at hq
    obtain ⟨-, hpio, hwait⟩ := hq
    by_cases hpend : s.muxPend = none
    · exact ⟨.shift, .inr (.inl rfl), by simp [enabled, hpio, Nat.pos_of_ne_zero (hwait hpend)]⟩
    · exact ⟨.muxsm, .inr (.inr rfl), by simp [enabled, hpio, Option.isSome_iff_ne_none, hpend]⟩

/-- Before phase 3 the sequencer starts no row shift (R348). -/
theorem seqStep_shRem {s : State} (hp : s.phase ≠ 3) : (seqStep s).shRem = s.shRem := by
  obtain h | h | h | h := phase_cases s.phase
  · rw [seqStep_zero h]
    exact applyMux_shRem _ _
  · rw [seqStep_one h, seqPhase1_eq]
  · rw [seqStep_two h, seqPhase2_eq]
    split_ifs <;> rfl
  · exact absurd h hp

/-- A sub-phase that does not end the burst leaves less of it. -/
theorem seqStep_burstLeft {s : State} (hp : s.phase ≠ 3) : burstLeft (seqStep s) < burstLeft s := by
  have hnext : ∀ p : Fin 4, p ≠ 3 → (p + 1).val = p.val + 1 := by decide
  have hlt := s.phase.isLt
  have hpend : (seqStep s).muxPend.toList.length ≤ 1 := by cases (seqStep s).muxPend <;> simp
  rw [burstLeft, burstLeft, seqStep_phase, hnext _ hp, seqStep_shRem hp]
  omega

/-- A turn in a burst that does not end it leaves less of it; or it leaves as much, and then it is no step of an agent that
moves the burst. -/
theorem burst_turnEffect {s t : State} {τ : Turn} (hτ : τ ≠ .reset) (hb : s.busy = true) (ht : t.busy = true)
    (he : TurnEffect s τ t) : burstLeft t < burstLeft s
      ∨ (burstView t = burstView s ∧ ∀ a, MovesBurst a → τ = .agent a → enabled a s = false) := by
  cases he with
  | reset => exact absurd rfl hτ
  | hold a hd => exact .inr ⟨rfl, fun _ _ ha => Turn.agent.inj ha ▸ hd⟩
  | seq => exact .inl (seqStep_burstLeft ((seqStep_busy hb).mp ht))
  | shift _ hrem =>
    rw [shiftStep_eq]
    refine .inl ?_
    simp only [burstLeft]
    omega
  | muxsm _ i hi =>
    rw [muxsmStep_eq hi]
    refine .inl ?_
    simp [burstLeft, hi]
  | copy => exact .inr ⟨rfl, by rintro _ (rfl | rfl | rfl) ⟨⟩⟩
  | timer _ hidle => exact flag_absurd hb hidle
  | host _ _ _ _ hidle => exact flag_absurd hb hidle
  | illegal _ _ _ hidle => exact flag_absurd hb hidle

/-! ### Progress -/

section
variable {sched : Nat → Turn} {s : State} (hno : NoReset sched)
include hno

/-- As long as a burst lasts and no less of it is left, nothing its agents depend on changes. -/
theorem burstView_of_stalled {n : Nat} (hbusy : ∀ m, (runOf sched s m).busy = true)
    (hstall : ∀ m, burstLeft (runOf sched s n) ≤ burstLeft (runOf sched s m)) {m : Nat} (hm : n ≤ m) :
    burstView (runOf sched s m) = burstView (runOf sched s n) := by
  induction m, hm using Nat.le_induction with
  | base => rfl
  | succ m _ ih =>
    obtain hless | ⟨hview, -⟩ := burst_turnEffect (hno m) (hbusy m) (hbusy (m + 1)) (afterTurn_effect _ _)
    · exact absurd (hstall (m + 1)) (Nat.not_le.mpr (burstLeft_congr ih ▸ hless))
    · exact hview.trans ih

/-- In a weakly fair run a burst that lasts has less left of it some time. -/
theorem exists_less_burstLeft (h : Invariant s) (hfair : WeaklyFair sched s)
    (hbusy : ∀ m, (runOf sched s m).busy = true) (n : Nat) :
    ∃ m, burstLeft (runOf sched s m) < burstLeft (runOf sched s n) := by
  by_contra hnone
  push Not at hnone
  have hview := fun {m : Nat} => burstView_of_stalled hno hbusy hnone (m := m)
  have hrun := (runOf_invariant h sched n).spec.run_of_busy (hbusy n)
  obtain ⟨a, ha, hon⟩ := exists_enabled_movesBurst hrun (hbusy n)
  have hstays : ∀ m, n ≤ m → enabled a (runOf sched s m) = true := fun m hm => (enabled_congr ha (hview hm)).trans hon
  obtain ⟨m, hm, hturn⟩ := hfair a n hstays
  obtain hless | ⟨-, hoff⟩ := burst_turnEffect (hno m) (hbusy m) (hbusy (m + 1)) (afterTurn_effect _ _)
  · exact absurd (hnone (m + 1)) (Nat.not_le.mpr (burstLeft_congr (hview hm) ▸ hless))
  · exact flag_absurd (hstays m hm) (hoff a ha hturn)

end

/-- Settles O59: what is left of a burst cannot become less for ever. -/
theorem everyBurstEnds : Obligations.EveryBurstEnds := by
  intro sched s h hno hfair _
  by_contra hlasts
  have hbusy : ∀ m, (runOf sched s m).busy = true := fun m =>
    Bool.eq_true_of_not_eq_false fun hidle => hlasts ⟨m, hidle⟩
  have hless := exists_less_burstLeft hno h hfair hbusy
  have hnever : ∀ left n, burstLeft (runOf sched s n) ≠ left := by
    intro left
    induction left using Nat.strong_induction_on with
    | _ left ih =>
      rintro n rfl
      obtain ⟨m, hm⟩ := hless n
      exact ih _ hm m rfl
  exact hnever _ 0 rfl

end Sys2Proof.Machine
end

section
/-! SUPPORT. The copy engine (44_swap_arbiter.md R388, R389): one COPY step, and the state after any number of them. -/

namespace Sys2Proof.Machine

/-! ### One COPY step -/

/-- While a copy runs the turn of COPY is its step (43_refresh_sequencer.md R321). -/
theorem takeTurn_copy {s : State} (h : s.copyBusy = true) : takeTurn (.agent .copy) s = .next (copyStep s) :=
  takeTurn_of_enabled h

/-- Settles O40: the byte written is the one read from the front slot, and no other byte is written. -/
theorem copyStepCopiesOneByte : Obligations.CopyStepCopiesOneByte := by
  intro s hbusy hidx hwf
  refine ⟨copyStep s, takeTurn_copy hbusy, ?frame, ?copied, fun k j hother => ?others⟩
  case frame =>
    have hlast : (!(s.copyIdx == 4095)) = decide (s.copyIdx ≠ 4095) := (decide_not ..).symm
    rw [copyStep_eq, hlast]
  case copied => rw [bufRead_copyStep hwf, if_pos ⟨rfl, rfl, hidx⟩]
  case others => rw [bufRead_copyStep hwf, if_neg fun ⟨hk, hj, _⟩ => hother ⟨hk, hj⟩]

/-! ### A whole copy -/

theorem bslot_congr {s t : State} (hdb : t.db = s.db) (hfront : t.front = s.front) : bslot t = bslot s := by
  simp only [bslot, hdb, hfront]

/-- When double-buffered the two slots differ (10_state.md R54). -/
theorem fslot_ne_bslot {s : State} (h : s.db = true) : fslot s ≠ bslot s := by
  have hother : ∀ k : Fin 2, k ≠ 1 - k := by decide
  simpa [fslot, bslot, h] using hother s.front

theorem afterTurns_replicate_succ (n : Nat) (τ : Turn) (s : State) :
    afterTurns (List.replicate (n + 1) τ) s = afterTurn τ (afterTurns (List.replicate n τ) s) := by
  rw [List.replicate_succ', afterTurns, List.foldl_append]
  rfl

/-- In `t` the copy of `s` has gone `n` bytes on. -/
structure CopiedOn (s : State) (n : Nat) (t : State) : Prop where
  idx : t.copyIdx = s.copyIdx + n
  busy : t.copyBusy = decide (s.copyIdx + n < 4096)
  db : t.db = s.db
  front : t.front = s.front
  wf : Memory.wf t.store = true
  bytes : ∀ k i, bufRead k i t = if k = bslot s ∧ s.copyIdx ≤ i ∧ i < s.copyIdx + n then bufRead (fslot s) i s
    else bufRead k i s

/-- A COPY step copies one byte more: what it reads in the front slot is what stood there at first. -/
theorem CopiedOn.copyStep {s t : State} {n : Nat} (h : CopiedOn s n t) (hdb : s.db = true) (hleft : s.copyIdx + n < 4096) :
    CopiedOn s (n + 1) (copyStep t) where
  idx := congrArg (· + 1) h.idx
  busy := by
    rw [copyStep_eq, h.idx]
    simp only [beq_eq_decide, ← decide_not]
    exact decide_eq_decide.mpr (by omega)
  db := h.db
  front := h.front
  wf := bufWrite_wf h.wf _ _ _
  bytes k i := by
    have hread : bufRead (fslot s) (s.copyIdx + n) t = bufRead (fslot s) (s.copyIdx + n) s := by
      rw [h.bytes, if_neg fun ⟨hslot, _⟩ => fslot_ne_bslot hdb hslot]
    rw [bufRead_copyStep h.wf, h.idx, fslot_congr h.db h.front, bslot_congr h.db h.front, hread]
    by_cases hnew : k = bslot s ∧ i = s.copyIdx + n
    · obtain ⟨rfl, rfl⟩ := hnew
      rw [if_pos ⟨rfl, rfl, hleft⟩, if_pos ⟨rfl, by omega, by omega⟩]
    · have hsame : (k = bslot s ∧ s.copyIdx ≤ i ∧ i < s.copyIdx + (n + 1))
          ↔ (k = bslot s ∧ s.copyIdx ≤ i ∧ i < s.copyIdx + n) := by omega
      rw [if_neg fun ⟨hk, hi, _⟩ => hnew ⟨hk, hi⟩, h.bytes, if_congr hsame rfl rfl]

/-- As many COPY turns as bytes are left copy one byte each. -/
theorem copiedOn_afterTurns {s : State} (hbusy : s.copyBusy = true) (hidx : s.copyIdx < 4096) (hdb : s.db = true)
    (hwf : Memory.wf s.store = true) (n : Nat) (hn : s.copyIdx + n ≤ 4096) :
    CopiedOn s n (afterTurns (List.replicate n (.agent .copy)) s) := by
  induction n with
  | zero => exact ⟨rfl, by simp [afterTurns, hbusy, hidx], rfl, rfl, hwf, fun k i => (if_neg (by omega)).symm⟩
  | succ n ih =>
    have h := ih (by omega)
    have hstill := h.busy.trans (decide_eq_true (by omega))
    rw [afterTurns_replicate_succ, afterTurn_of_next (takeTurn_copy hstill)]
    exact h.copyStep hdb (by omega)

/-- Settles O41: after `n` COPY turns the copy runs exactly if bytes are left. -/
theorem copyEndsWithEqualSlots : Obligations.CopyEndsWithEqualSlots := by
  intro s hbusy hidx hdb hwf
  have hcopied := copiedOn_afterTurns hbusy hidx hdb hwf
  have hend : s.copyIdx + (4096 - s.copyIdx) = 4096 := by omega
  have hall := hcopied (4096 - s.copyIdx) hend.le
  refine ⟨fun n hn => ?runs, ?ended, hall.idx.trans hend, fun i hge hlt => ?copied, fun i hlt => ?earlier, fun i => ?front⟩
  case runs => exact (hcopied n (by omega)).busy.trans (decide_eq_true (by omega))
  case ended => exact hall.busy.trans (decide_eq_false (by omega))
  case copied => rw [hall.bytes, if_pos ⟨rfl, hge, by omega⟩]
  case earlier => rw [hall.bytes, if_neg (by omega)]
  case front => rw [hall.bytes, if_neg fun ⟨hslot, _⟩ => fslot_ne_bslot hdb hslot]

end Sys2Proof.Machine
end

section
/-! SUPPORT. The swap arbiter becomes idle again (44_swap_arbiter.md R389). Its work goes through stages: while a swap is pending,
waits for the tick and bursts by turns, up to the exchange at the frame boundary or in a stop; then the copy. `swapVariant`
counts the stages and what is left of the one it is in; no turn makes it larger, and an agent that makes it smaller stays
enabled until its turn comes. -/

namespace Sys2Proof.Machine

/-! ### Progress of weakly fair runs -/

/-- `v` becomes smaller from `s` to `t`; or it stays, and then the turn `τ` is none of the agents that help and all of them
still do. -/
def Progress {α : Type} [LT α] (v : State → α) (Helps : State → Agent → Prop) (s : State) (τ : Turn) (t : State) : Prop :=
  v t < v s ∨ (v t = v s ∧ ∀ a, Helps s a → Helps t a ∧ τ ≠ .agent a)

/-- The rule of weak fairness (20_memory.md R120): if short of the goal some enabled agent helps, and every turn makes progress,
the run reaches the goal. -/
theorem exists_of_progress {α : Type} [Preorder α] [WellFoundedLT α] {v : State → α} {Helps : State → Agent → Prop}
    {sched : Nat → Turn} {s : State} {Goal : State → Prop} (hfair : WeaklyFair sched s)
    (henabled : ∀ t a, Helps t a → enabled a t = true)
    (hhelped : ∀ n, ¬Goal (runOf sched s n) → ∃ a, Helps (runOf sched s n) a)
    (hprogress : ∀ n, ¬Goal (runOf sched s n) → Progress v Helps (runOf sched s n) (sched n) (runOf sched s (n + 1))) :
    ∃ n, Goal (runOf sched s n) := by
  by_contra hnever
  push Not at hnever
  obtain ⟨_, ⟨n, rfl⟩, hmin⟩ :=
    wellFounded_lt.has_min (Set.range fun n => v (runOf sched s n)) ⟨_, 0, rfl⟩
  obtain ⟨a, ha⟩ := hhelped n (hnever n)
  have hstalled : ∀ m, n ≤ m → v (runOf sched s m) = v (runOf sched s n) ∧ Helps (runOf sched s m) a := by
    intro m hm
    induction m, hm using Nat.le_induction with
    | base => exact ⟨rfl, ha⟩
    | succ m _ ih =>
      obtain ⟨hv, hstill⟩ := ih
      obtain hless | ⟨hsame, hkept⟩ := hprogress m (hnever m)
      · exact absurd (hless.trans_eq hv) (hmin _ ⟨m + 1, rfl⟩)
      · exact ⟨hsame.trans hv, (hkept a hstill).1⟩
  obtain ⟨m, hm, hturn⟩ := hfair a n fun m hm => henabled _ _ (hstalled m hm).2
  obtain ⟨hv, hstill⟩ := hstalled m hm
  obtain hless | ⟨-, hkept⟩ := hprogress m (hnever m)
  · exact hmin _ ⟨m + 1, rfl⟩ (hless.trans_eq hv)
  · exact (hkept a hstill).2 hturn

/-! ### What is left of the arbiter's work -/

/-- How many bursts end before a phase 2 at the frame boundary (43_refresh_sequencer.md R345); in phase 3 the burst in progress
is one of them. -/
def rowsToBoundary (s : State) : Nat :=
  if s.phase = 3 then s.nrows.toNat - nextRow s else s.nrows.toNat - 1 - s.row

/-- The stages before the copy: for each row up to the boundary a wait and a burst. -/
def stagesLeft (s : State) : Nat :=
  if s.swapReq then 2 * rowsToBoundary s + (if s.busy then 1 else 2) else 0

/-- What is left of the stage: of the burst, of the wait for the tick, or of the copy. -/
def stageLeft (s : State) : Nat :=
  if s.swapReq then (if s.busy then burstLeft s else s.period - s.cnt) else 4096 - s.copyIdx

/-- Stages first, then what is left of the one in progress. -/
def swapVariant (s : State) : Nat ×ₗ Nat := toLex (stagesLeft s, stageLeft s)

/-- The agents that bring the stage to its end. -/
def HelpsSwap (s : State) (a : Agent) : Prop :=
  enabled a s = true ∧ if s.swapReq then (if s.busy then MovesBurst a else a = .timer) else a = .copy

theorem swapVariant_lt_of_stagesLeft {s t : State} (h : stagesLeft t < stagesLeft s) : swapVariant t < swapVariant s :=
  Prod.Lex.toLex_lt_toLex.mpr (.inl h)

theorem swapVariant_lt_of_stageLeft {s t : State} (h : stagesLeft t = stagesLeft s) (hlt : stageLeft t < stageLeft s) :
    swapVariant t < swapVariant s :=
  Prod.Lex.toLex_lt_toLex.mpr (.inr ⟨h, hlt⟩)

/-- After the turn that ends the request only the copy is left. -/
theorem swapVariant_lt_of_exchanged {s t : State} (hs : s.swapReq = true) (ht : t.swapReq = false) :
    swapVariant t < swapVariant s := by
  refine swapVariant_lt_of_stagesLeft ?_
  simp only [stagesLeft, hs, ht, if_true, Bool.false_eq_true, if_false]
  split_ifs <;> omega

/-- As long as the arbiter is not idle an enabled agent helps. -/
theorem SpecInvariant.exists_helpsSwap {s : State} (h : SpecInvariant s) (hwork : arbiterIdle s = false) :
    ∃ a, HelpsSwap s a := by
  cases hswap : s.swapReq with
  | false =>
    have hcopy : s.copyBusy = true := by simpa [arbiterIdle, hswap] using hwork
    exact ⟨.copy, hcopy, by simp [hswap]⟩
  | true =>
    obtain ⟨-, hrun, -⟩ := h.swapPending hswap
    cases hbusy : s.busy with
    | false => exact ⟨.timer, by simp [enabled, hrun, hbusy], by simp [hswap, hbusy]⟩
    | true =>
      obtain ⟨a, ha, hon⟩ := exists_enabled_movesBurst hrun hbusy
      exact ⟨a, hon, by simpa [hswap, hbusy] using ha⟩

/-! ### The copy -/

/-- What a copy depends on. -/
def copyView (s : State) : Bool × Bool × Nat := (s.swapReq, s.copyBusy, s.copyIdx)

theorem copyView_eq_iff {s t : State} :
    copyView t = copyView s ↔ t.swapReq = s.swapReq ∧ t.copyBusy = s.copyBusy ∧ t.copyIdx = s.copyIdx := by
  simp [copyView]

theorem copyView_start (s : State) : copyView (start s) = copyView s := by
  unfold start
  split_ifs
  · simp [copyView]
  · rfl

theorem copyView_timerStep (s : State) : copyView (timerStep s) = copyView s := by
  unfold timerStep
  split_ifs <;> rfl

/-- Without a request no sub-phase of a burst touches the copy engine. -/
theorem copyView_seqStep {s : State} (hswap : s.swapReq = false) : copyView (seqStep s) = copyView s := by
  obtain hp | hp | hp | hp := phase_cases s.phase
  · rw [seqStep_zero hp]
    simp [copyView, seqPhase0]
  · rw [seqStep_one hp, seqPhase1_eq]
    rfl
  · have hnone : ¬s.swapReq = true := by simp [hswap]
    rw [seqStep_two hp, seqPhase2_eq, if_neg hnone]
    split_ifs <;> rfl
  · rw [seqStep_three hp]
    simp [copyView, seqPhase3]

section
variable {s t : State} (hcopy : s.copyBusy = true) (hswap : s.swapReq = false)
include hcopy hswap

/-- While a copy runs no `CTRL` write touches it: a stop exchanges nothing, and `DB` cannot change (40_host_registers.md R203). -/
theorem copyView_writeControl (en db : Bool) : copyView (writeControl en db s) = copyView s := by
  have hstop : copyView (stop s) = copyView s := by simp [stop_eq, copyView, hswap]
  obtain ⟨-, hcopying, -⟩ := copyView_eq_iff.mp hstop
  have he := writeControl_effect en db s
  generalize writeControl en db s = t at he ⊢
  cases he with
  | refused => rfl
  | kept => rfl
  | stopped => exact hstop
  | stoppedDb _ _ _ hc => exact flag_absurd (hcopying.trans hcopy) hc
  | storedDb _ _ _ hc => exact flag_absurd hcopy hc
  | started => exact copyView_start s
  | startedDb _ _ _ hc => exact flag_absurd hcopy hc

theorem copyView_execEffect {i : Instr} (he : ExecEffect s i t) : copyView t = copyView s := by
  cases he with
  | misaligned _ wr => cases wr <;> rfl
  | ctrl d => exact copyView_writeControl hcopy hswap _ _
  | swap d =>
    rw [requestSwap_noop (.inr (.inr (.inr hcopy)))]
    rfl
  | store _ n a d => simp [copyView]
  | _ => rfl

/-- While a copy runs only its own steps touch it (44_swap_arbiter.md R388). -/
theorem copyView_turnEffect {τ : Turn} (hτ : τ ≠ .reset) (he : TurnEffect s τ t) :
    (τ = .agent .copy ∧ t = copyStep s) ∨ (τ ≠ .agent .copy ∧ copyView t = copyView s) := by
  cases he with
  | hold a hoff =>
    have hon : enabled .copy s = true := hcopy
    exact .inr ⟨fun ha => flag_absurd hon (Turn.agent.inj ha ▸ hoff), rfl⟩
  | reset => exact absurd rfl hτ
  | timer => exact .inr ⟨nofun, copyView_timerStep s⟩
  | seq => exact .inr ⟨nofun, copyView_seqStep hswap⟩
  | copy => exact .inl ⟨rfl, rfl⟩
  | shift => rw [shiftStep_eq]; exact .inr ⟨nofun, rfl⟩
  | muxsm _ i hi => rw [muxsmStep_eq hi]; exact .inr ⟨nofun, rfl⟩
  | host w q i _ _ _ _ he => exact .inr ⟨nofun, copyView_execEffect (s := { s with hostq := q }) hcopy hswap he⟩
  | illegal w q => exact .inr ⟨nofun, by simp [copyView]⟩

/-- A COPY step leaves one byte less, and COPY stays enabled until it is taken. -/
theorem progress_of_copying (hleft : s.copyIdx < 4096) {τ : Turn} (hτ : τ ≠ .reset) (he : TurnEffect s τ t) :
    Progress swapVariant HelpsSwap s τ t := by
  obtain ⟨-, rfl⟩ | ⟨hother, hview⟩ := copyView_turnEffect hcopy hswap hτ he
  · refine .inl (swapVariant_lt_of_stageLeft ?_ ?_)
    · simp [stagesLeft, copyStep_eq, hswap]
    · simp only [stageLeft, copyStep_eq, hswap, Bool.false_eq_true, if_false]
      omega
  · obtain ⟨hreq, hbusy, hidx⟩ := copyView_eq_iff.mp hview
    refine .inr ⟨by simp [swapVariant, stagesLeft, stageLeft, hreq, hswap, hidx], fun a ⟨_, ha⟩ => ?_⟩
    obtain rfl : a = .copy := by simpa [hswap] using ha
    exact ⟨⟨hbusy.trans hcopy, by simp [hreq, hswap]⟩, hother⟩

end

/-! ### The wait for the tick -/

/-- What a wait for the tick with a swap pending depends on. -/
def waitView (s : State) : Bool × Bool × Fin 4 × Nat × BitVec 6 × Nat × Nat :=
  (s.swapReq, s.busy, s.phase, s.row, s.nrows, s.period, s.cnt)

theorem waitView_eq_iff {s t : State} : waitView t = waitView s ↔ t.swapReq = s.swapReq ∧ t.busy = s.busy
    ∧ t.phase = s.phase ∧ t.row = s.row ∧ t.nrows = s.nrows ∧ t.period = s.period ∧ t.cnt = s.cnt := by
  simp [waitView]

/-- Of the `CTRL` writes to a running block only a stop touches the wait, and it exchanges (43_refresh_sequencer.md R326). -/
theorem waitView_writeControl {s : State} (hrun : s.run = true) (en db : Bool) :
    (writeControl en db s).swapReq = false ∨ waitView (writeControl en db s) = waitView s := by
  have hstop : (stop s).swapReq = false := by rw [stop_eq]
  have he := writeControl_effect en db s
  generalize writeControl en db s = t at he ⊢
  cases he with
  | refused => exact .inr rfl
  | kept => exact .inr rfl
  | stopped => exact .inl hstop
  | stoppedDb => exact .inl hstop
  | storedDb hstopped => exact flag_absurd hrun hstopped
  | started hstopped => exact flag_absurd hrun hstopped
  | startedDb hstopped => exact flag_absurd hrun hstopped

/-- The timer counts, or its tick ends the wait (43_refresh_sequencer.md R330). -/
theorem timerStep_swapVariant {s : State} (hswap : s.swapReq = true) (hidle : s.busy = false) :
    swapVariant (timerStep s) < swapVariant s := by
  have hburst : ∀ u : State, u.swapReq = s.swapReq → u.busy = true → rowsToBoundary u = rowsToBoundary s →
      swapVariant u < swapVariant s := fun u hreq hbusy hrows =>
    swapVariant_lt_of_stagesLeft (by simp [stagesLeft, hreq, hswap, hbusy, hidle, hrows])
  by_cases hdue : s.cnt + 1 < s.period
  · rw [timerStep_count hdue]
    refine swapVariant_lt_of_stageLeft rfl ?_
    simp only [stageLeft, hswap, hidle, Bool.false_eq_true, if_true, if_false]
    omega
  · cases hp : s.reloadPending with
    | false => rw [timerStep_tick hdue hp]; exact hburst _ rfl rfl rfl
    | true => rw [timerStep_reload hdue hp]; exact hburst _ rfl rfl rfl

section
variable {s t : State} (hswap : s.swapReq = true) (hrun : s.run = true)
include hswap hrun

theorem waitView_execEffect {i : Instr} (he : ExecEffect s i t) : t.swapReq = false ∨ waitView t = waitView s := by
  cases he with
  | misaligned _ wr => exact .inr (by cases wr <;> rfl)
  | ctrl d => exact waitView_writeControl hrun _ _
  | swap d =>
    rw [requestSwap_noop (.inr (.inr (.inl hswap)))]
    exact .inr rfl
  | geom0 d hstopped => exact flag_absurd hrun hstopped
  | geom1 d hstopped => exact flag_absurd hrun hstopped
  | pol d hstopped => exact flag_absurd hrun hstopped
  | store _ n a d => exact .inr (by simp [waitView])
  | _ => exact .inr rfl

variable (hidle : s.busy = false)
include hidle

/-- In a wait with a swap pending a turn exchanges, is the timer's, or leaves the wait as it is. -/
theorem waitView_turnEffect {τ : Turn} (hτ : τ ≠ .reset) (he : TurnEffect s τ t) : t.swapReq = false
    ∨ (τ = .agent .timer ∧ t = timerStep s) ∨ (τ ≠ .agent .timer ∧ waitView t = waitView s) := by
  cases he with
  | hold a hoff =>
    have hon : enabled .timer s = true := by simp [enabled, hrun, hidle]
    exact .inr (.inr ⟨fun ha => flag_absurd hon (Turn.agent.inj ha ▸ hoff), rfl⟩)
  | reset => exact absurd rfl hτ
  | timer => exact .inr (.inl ⟨rfl, rfl⟩)
  | seq _ hbusy => exact flag_absurd hbusy hidle
  | copy => exact .inr (.inr ⟨nofun, rfl⟩)
  | shift => rw [shiftStep_eq]; exact .inr (.inr ⟨nofun, rfl⟩)
  | muxsm _ i hi => rw [muxsmStep_eq hi]; exact .inr (.inr ⟨nofun, rfl⟩)
  | host w q i _ _ _ _ he =>
    obtain hexchanged | hview := waitView_execEffect (s := { s with hostq := q }) hswap hrun he
    · exact .inl hexchanged
    · exact .inr (.inr ⟨nofun, hview⟩)
  | illegal w q => exact .inr (.inr ⟨nofun, by simp [waitView]⟩)

/-- A timer step leaves less of the wait, and the timer stays enabled until it is taken. -/
theorem progress_of_waiting (ht : SpecInvariant t) {τ : Turn} (hτ : τ ≠ .reset) (he : TurnEffect s τ t) :
    Progress swapVariant HelpsSwap s τ t := by
  obtain hexchanged | ⟨-, rfl⟩ | ⟨hother, hview⟩ := waitView_turnEffect hswap hrun hidle hτ he
  · exact .inl (swapVariant_lt_of_exchanged hswap hexchanged)
  · exact .inl (timerStep_swapVariant hswap hidle)
  · obtain ⟨hreq, hbusy, hphase, hrow, hnrows, hperiod, hcnt⟩ := waitView_eq_iff.mp hview
    obtain ⟨-, hrun', -⟩ := ht.swapPending (hreq.trans hswap)
    refine .inr ⟨?_, fun a ⟨_, ha⟩ => ?_⟩
    · simp [swapVariant, stagesLeft, stageLeft, rowsToBoundary, nextRow, hreq, hbusy, hphase, hrow, hnrows, hperiod, hcnt,
        hidle, hswap]
    · obtain rfl : a = .timer := by simpa [hswap, hidle] using ha
      exact ⟨⟨by simp [enabled, hrun', hbusy, hidle], by simp [hreq, hswap, hbusy, hidle]⟩, hother⟩

end

/-! ### The bursts -/

section
variable {s t : State} (h : SpecInvariant s) (hswap : s.swapReq = true) (hbusy : s.busy = true)
include h hswap hbusy

/-- With a swap pending, phase 2 at the boundary exchanges and phase 3 ends a stage; the other sub-phases leave their number. -/
theorem seqStep_stagesLeft : stagesLeft (seqStep s) < stagesLeft s
    ∨ (stagesLeft (seqStep s) = stagesLeft s ∧ (seqStep s).swapReq = true ∧ (seqStep s).busy = true) := by
  obtain ⟨hvalid, hrow, -, -⟩ := h.running (h.run_of_busy hbusy)
  obtain hp | hp | hp | hp := phase_cases s.phase
  · rw [seqStep_zero hp]
    exact .inr (by simp [stagesLeft, rowsToBoundary, seqPhase0, hp, hswap, hbusy])
  · rw [seqStep_one hp, seqPhase1_eq]
    exact .inr (by simp [stagesLeft, rowsToBoundary, hp, hswap, hbusy])
  · rw [seqStep_two hp, seqPhase2_eq]
    by_cases hlast : s.row = s.nrows.toNat - 1
    · rw [if_pos hlast, if_pos hswap]
      exact .inl (by simp [stagesLeft, hswap, hbusy])
    · have hnext : (s.row + 1) % s.nrows.toNat = s.row + 1 := Nat.mod_eq_of_lt (by omega)
      rw [if_neg hlast]
      refine .inr ⟨?_, hswap, hbusy⟩
      simp [stagesLeft, rowsToBoundary, nextRow, hp, hswap, hbusy, hnext]
      omega
  · have hnext : nextRow s < s.nrows.toNat := Nat.mod_lt _ (nrows_pos hvalid)
    rw [seqStep_three hp]
    refine .inl ?_
    simp [stagesLeft, rowsToBoundary, seqPhase3, hp, hswap, hbusy]
    omega

theorem stagesLeft_turnEffect {τ : Turn} (hτ : τ ≠ .reset) (he : TurnEffect s τ t) :
    stagesLeft t < stagesLeft s ∨ (stagesLeft t = stagesLeft s ∧ t.swapReq = true ∧ t.busy = true) := by
  cases he with
  | hold => exact .inr ⟨rfl, hswap, hbusy⟩
  | reset => exact absurd rfl hτ
  | seq => exact seqStep_stagesLeft h hswap hbusy
  | copy hc =>
    obtain ⟨-, -, hnone⟩ := h.swapPending hswap
    exact flag_absurd hc hnone
  | shift => rw [shiftStep_eq]; exact .inr ⟨rfl, hswap, hbusy⟩
  | muxsm _ i hi => rw [muxsmStep_eq hi]; exact .inr ⟨rfl, hswap, hbusy⟩
  | timer _ hidle => exact flag_absurd hbusy hidle
  | host _ _ _ _ hidle => exact flag_absurd hbusy hidle
  | illegal _ _ _ hidle => exact flag_absurd hbusy hidle

/-- A burst with a swap pending moves on as every burst does, and ends the stage if not the request. -/
theorem progress_of_burst {τ : Turn} (hτ : τ ≠ .reset) (he : TurnEffect s τ t) : Progress swapVariant HelpsSwap s τ t := by
  obtain hless | ⟨hsame, hswap', hbusy'⟩ := stagesLeft_turnEffect h hswap hbusy hτ he
  · exact .inl (swapVariant_lt_of_stagesLeft hless)
  have hleft : stageLeft s = burstLeft s := by simp [stageLeft, hswap, hbusy]
  have hleft' : stageLeft t = burstLeft t := by simp [stageLeft, hswap', hbusy']
  obtain hless | ⟨hview, hoff⟩ := burst_turnEffect hτ hbusy hbusy' he
  · exact .inl (swapVariant_lt_of_stageLeft hsame (by rwa [hleft, hleft']))
  · refine .inr ⟨by rw [swapVariant, swapVariant, hsame, hleft, hleft', burstLeft_congr hview], fun a ⟨hon, ha⟩ => ?_⟩
    have hmoves : MovesBurst a := by simpa [hswap, hbusy] using ha
    exact ⟨⟨(enabled_congr hmoves hview).trans hon, by simpa [hswap', hbusy'] using hmoves⟩,
      fun hturn => flag_absurd hon (hoff a hmoves hturn)⟩

end

/-! ### The arbiter becomes idle -/

/-- As long as the arbiter is not idle every turn makes progress, whichever stage it is in. -/
theorem Invariant.progress_of_not_idle {s t : State} (h : Invariant s) (hwork : arbiterIdle s = false) {τ : Turn}
    (hτ : τ ≠ .reset) (he : TurnEffect s τ t) : Progress swapVariant HelpsSwap s τ t := by
  cases hswap : s.swapReq with
  | false =>
    have hcopy : s.copyBusy = true := by simpa [arbiterIdle, hswap] using hwork
    exact progress_of_copying hcopy hswap (h.range.copyLeft hcopy) hτ he
  | true =>
    obtain ⟨-, hrun, -⟩ := h.spec.swapPending hswap
    cases hbusy : s.busy with
    | false => exact progress_of_waiting hswap hrun hbusy (h.spec.turnEffect he) hτ he
    | true => exact progress_of_burst h.spec hswap hbusy hτ he

/-- Settles O60: by the rule of weak fairness, with the stages of the arbiter's work as the variant. -/
theorem swapArbiterBecomesIdle : Obligations.SwapArbiterBecomesIdle := by
  intro sched s h hno hfair
  have hinv := runOf_invariant h sched
  exact exists_of_progress (Goal := fun t => arbiterIdle t = true) hfair (fun _ _ hhelps => hhelps.1)
    (fun n hwork => (hinv n).spec.exists_helpsSwap (Bool.eq_false_of_not_eq_true hwork))
    (fun n hwork => (hinv n).progress_of_not_idle (Bool.eq_false_of_not_eq_true hwork) (hno n) (afterTurn_effect _ _))

end Sys2Proof.Machine
end

section
/-! SUPPORT. The row timing computation (45_backends.md R420, R421): the counts for an interval that fits the counter
undivided and for one longer than the timer has. -/

namespace Sys2Proof.Machine

/-- The rounded-up quotient is Mathlib's `⌈/⌉`. -/
theorem ceilDiv_le_iff {a b c : Nat} (hb : 0 < b) : ceilDiv a b ≤ c ↔ a ≤ b * c := by
  rw [ceilDiv, ← Nat.ceilDiv_eq_add_pred_div, ceilDiv_le_iff_le_mul hb]

/-- The divider is the least with which the interval fits the counter, as far as the timer has one. -/
theorem computeTiming_div (f w divMax us : Nat) :
    (computeTiming f w divMax us).div = min divMax (max 1 (ceilDiv (wantedCycles f us) (2 ^ w))) := rfl

/-- The period is the interval in divided cycles, rounded, as far as the counter goes. -/
theorem computeTiming_period (f w divMax us : Nat) :
    (computeTiming f w divMax us).period = min (2 ^ w) (max 1
      ((wantedCycles f us + (computeTiming f w divMax us).div / 2) / (computeTiming f w divMax us).div)) := rfl

/-- An interval that fits the counter undivided is met to the count. -/
theorem computeTiming_of_fits {f w divMax us : Nat} (hd : 1 ≤ divMax) (hfit : wantedCycles f us ≤ 2 ^ w) :
    (computeTiming f w divMax us).div = 1 ∧ (computeTiming f w divMax us).period = wantedCycles f us := by
  have hwanted : 1 ≤ wantedCycles f us := le_max_left _ _
  have hceil : ceilDiv (wantedCycles f us) (2 ^ w) ≤ 1 :=
    (ceilDiv_le_iff (Nat.two_pow_pos w)).mpr (by rwa [Nat.mul_one])
  have hdiv : (computeTiming f w divMax us).div = 1 := by
    rw [computeTiming_div, max_eq_left hceil, min_eq_right hd]
  refine ⟨hdiv, ?_⟩
  rw [computeTiming_period, hdiv, Nat.div_one, show 1 / 2 = 0 from rfl, Nat.add_zero, max_eq_right hwanted,
    min_eq_right hfit]

/-- An interval longer than the timer has takes the longest: the largest divider and the whole counter. -/
theorem computeTiming_of_tooLong {f w divMax us : Nat} (hd : 1 ≤ divMax) (hlong : divMax * 2 ^ w < wantedCycles f us) :
    (computeTiming f w divMax us).div = divMax ∧ (computeTiming f w divMax us).period = 2 ^ w := by
  have hceil : divMax < ceilDiv (wantedCycles f us) (2 ^ w) := by
    rw [← Nat.not_le, ceilDiv_le_iff (Nat.two_pow_pos w), Nat.not_le, Nat.mul_comm]
    exact hlong
  have hdiv : (computeTiming f w divMax us).div = divMax := by
    rw [computeTiming_div, min_eq_left (hceil.le.trans (le_max_right _ _))]
  have hcounts : 2 ^ w ≤ (wantedCycles f us + divMax / 2) / divMax := by
    rw [Nat.le_div_iff_mul_le hd, Nat.mul_comm]
    omega
  refine ⟨hdiv, ?_⟩
  rw [computeTiming_period, hdiv, min_eq_left (hcounts.trans (le_max_right _ _))]

/-- Settles O26: the ranges are those of the two clamps; each example is computed. -/
theorem rowTimingInRange : Obligations.RowTimingInRange := by
  refine ⟨?ranges, by decide, by decide, by decide, by decide, by decide, by decide, by decide, by decide, by decide⟩
  case ranges =>
    intro f w divMax us _ hd r
    obtain ⟨⟨hdiv, hdivMax⟩, hperiod, hperiodMax⟩ := computeTiming_inRange f w us hd
    exact ⟨hdiv, hdivMax, hperiod, hperiodMax, min_le_left _ _, computeTiming_of_fits hd, computeTiming_of_tooLong hd⟩

end Sys2Proof.Machine
end

section
/-! SUPPORT. The backends (45_backends.md R430 to R444): the SHIFT steps of a row against the REG shift of its bytes, and the mux
lines each backend drives for a row. -/

namespace Sys2Proof.Machine

/-! ### One SHIFT step -/

theorem takeTurn_shift {s : State} (hp : s.par.backend = .pio) (hrem : 0 < s.shRem) :
    takeTurn (.agent .shift) s = .next (shiftStep s) :=
  takeTurn_of_enabled (by simp [enabled, hp, hrem])

/-- Settles O35: the byte's eight levels push as many bits out of the panel's register. -/
theorem shiftStepMovesOneByte : Obligations.ShiftStepMovesOneByte := by
  intro s hp hrem hlen v out
  have hin : shiftIn (byteLevels v s) s.panelSr = s.panelSr.drop 8 ++ byteLevels v s := shiftIn_eq _ _ hlen
  rw [takeTurn_shift hp hrem, shiftStep_eq, hin]
  rfl

/-! ### A whole row under PIO -/

/-- The levels of a row, its last byte apart. -/
theorem rowLevels_succ_last (k : Fin 2) (base n : Nat) (s : State) :
    rowLevels k base (n + 1) s = rowLevels k base n s ++ byteLevels (bufRead k (base + n) s) s := by
  simp only [rowLevels, List.range_succ, List.flatMap_append, List.flatMap_singleton]

theorem emitAll_append (es es' : List Event) (s : State) : emitAll (es ++ es') s = emitAll es' (emitAll es s) :=
  List.foldl_append

/-- The state `n` SHIFT steps into the row at `base` of slot `k`: the events of its first `n` bytes, and the bytes left
(45_backends.md R434, R435). -/
def shiftedRow (k : Fin 2) (base n : Nat) (s : State) : State :=
  { emitAll ((rowLevels k base n s).map .bit) s with shSlot := k, shSrc := base + n, shRem := rowBytes s - n }

/-- A SHIFT step moves the row on by a byte. -/
theorem shiftStep_shiftedRow (k : Fin 2) (base n : Nat) (s : State) :
    shiftStep (shiftedRow k base n s) = shiftedRow k base (n + 1) s := by
  rw [shiftedRow, shiftedRow, rowLevels_succ_last, List.map_append, emitAll_append, emitAll_bits (rowLevels k base n s),
    emitAll_bits, shiftStep, emitAll_bits]
  rfl

/-- The first `RB` SHIFT steps are all enabled and each moves the row on by a byte (45_backends.md R436). -/
theorem afterTurns_shift {s : State} (hp : s.par.backend = .pio) (k : Fin 2) (base : Nat) {n : Nat} (hn : n ≤ rowBytes s) :
    afterTurns (List.replicate n (.agent .shift)) (shiftRowPio k base s) = shiftedRow k base n s := by
  induction n with
  | zero => rfl
  | succ n ih =>
    have hstep : takeTurn (.agent .shift) (shiftedRow k base n s) = .next (shiftStep (shiftedRow k base n s)) :=
      takeTurn_shift ((congrArg Params.backend (emitAll_par _ s)).trans hp) (Nat.sub_pos_of_lt hn)
    rw [afterTurns_replicate_succ, ih (Nat.le_of_succ_le hn), afterTurn_of_next hstep, shiftStep_shiftedRow]

/-- Settles O36: after its `RB` SHIFT steps the row is emitted whole, as the REG shift emits it. -/
theorem pioShiftEqualsRegShift : Obligations.PioShiftEqualsRegShift := by
  intro s k base hp after t u
  have hafter : ∀ n, n ≤ rowBytes s → after n = shiftedRow k base n s := fun _ => afterTurns_shift hp k base
  have hshifted : t = { u with shSlot := k, shSrc := base + rowBytes s, shRem := rowBytes s - rowBytes s } :=
    hafter _ le_rfl
  refine ⟨fun n hn => by rw [hafter n hn]; rfl, ?_⟩
  rw [hshifted]
  exact ⟨rfl, rfl, rfl, rfl, emitAll_store _ s, rfl⟩

/-! ### The mux lines -/

theorem takeTurn_muxsm {s : State} {i : Nat} (hp : s.par.backend = .pio) (hi : s.muxPend = some i) :
    takeTurn (.agent .muxsm) s = .next (muxsmStep s) :=
  takeTurn_of_enabled (by simp [enabled, hp, hi])

/-- Line by line, the levels of a row with the unused lines at 0 (41_mux_table.md R252, R253, R255). -/
theorem getLsbD_rowLines (s : State) (i : Nat) {j : Nat} (hj : j < 32) :
    (muxLevel s i &&& lineMask s).getLsbD j = (decide (j < s.muxcnt.toNat) &&
      if s.muxcnt = s.nrows then (if j = i then s.selLvl else !s.selLvl) else i.testBit j) := by
  rw [BitVec.getLsbD_and, getLsbD_lineMask s hj, Bool.and_comm]
  by_cases hline : j < s.muxcnt.toNat
  · rw [decide_eq_true hline, Bool.true_and, Bool.true_and]
    by_cases hd : s.muxcnt = s.nrows
    · rw [if_pos hd, getLsbD_muxLevel_direct hd i hj hline]
    · rw [if_neg hd, muxLevel_binary hd, BitVec.getLsbD_ofNat, decide_eq_true hj, Bool.true_and]
  · rw [decide_eq_false hline, Bool.false_and, Bool.false_and]

/-- Settles O37: the pending row's levels, line by line. -/
theorem muxsmDrivesPendingRow : Obligations.MuxsmDrivesPendingRow := by
  intro s i hp hi _ _
  exact ⟨_, by rw [takeTurn_muxsm hp hi, muxsmStep_eq hi], fun _ => getLsbD_rowLines s i⟩

section
variable {s : State} {i : Nat} (hc : cfgValid s = true) (hi : i ≤ s.nrows.toNat)
include hc hi

/-- REG: the generated table's entry drives the levels of its row (45_backends.md R442). -/
theorem muxLvl_applyMux_generated (hp : s.par.backend = .reg) (hlines : s.muxLvl &&& ~~~(lineMask s) = 0#32) :
    (applyMux i (generateMuxTable s)).muxLvl = muxLevel s (i % s.nrows.toNat) &&& lineMask s := by
  obtain ⟨-, -, -, -, -, hmax, -⟩ := (cfgValid_iff s).mp hc
  obtain ⟨set, clr, hgen, htable⟩ := exists_generateMuxTable_eq s
  rw [hgen, applyMux_of_table (s := { s with muxset := set, muxclr := clr }) hp hi hlines (htable i (hi.trans hmax))]
  rfl

/-- PIO: the generated table's entry and the MUXSM step drive the levels of its row (45_backends.md R442). -/
theorem muxLvl_muxsmStep_generated (hp : s.par.backend = .pio) :
    (muxsmStep (applyMux i (generateMuxTable s))).muxLvl = muxLevel s (i % s.nrows.toNat) &&& lineMask s := by
  obtain ⟨-, -, -, -, -, hmax, -⟩ := (cfgValid_iff s).mp hc
  obtain ⟨set, clr, hgen, htable⟩ := exists_generateMuxTable_eq s
  obtain ⟨hset, -⟩ := htable i (hi.trans hmax)
  rw [hgen, muxsmStep_applyMux_of_table (s := { s with muxset := set, muxclr := clr }) hp hc hi hset]
  rfl

end

/-- Settles O39: the levels of a row do not depend on the backend that drives them. -/
theorem backendsDriveSameLevels : Obligations.BackendsDriveSameLevels := by
  intro s hc hlines i hi reg pio
  exact ⟨muxLvl_applyMux_generated (s := { s with par := { s.par with backend := .reg } }) hc hi rfl hlines,
    muxLvl_muxsmStep_generated (s := { s with par := { s.par with backend := .pio } }) hc hi rfl⟩

end Sys2Proof.Machine
end

section
/-! SUPPORT. The mux lines select the row the panel shows (45_backends.md R442, R454): every step keeps it. The lines change only
with the mux drive of a burst, to the burst's row; the advance at its end makes that the row before `s.row`. -/

namespace Sys2Proof.Machine

/-! ### States of which nothing or one row is asked -/

theorem selectsRow_of_stopped {s : State} (hr : s.run = false) : SelectsRow s :=
  ⟨(flag_absurd · hr), (flag_absurd · hr)⟩

/-- Between bursts nothing is asked before the light window has been opened. -/
theorem selectsRow_of_dark {s : State} (hb : s.busy = false) (harm : s.oeArmed = false) : SelectsRow s :=
  ⟨fun _ hburst => flag_absurd hburst hb, fun _ _ hopen => flag_absurd hopen harm⟩

/-- In a burst the row asked for is the burst's. -/
theorem selectsRow_of_burst {s : State} (hb : s.busy = true)
    (hrow : 1 ≤ s.phase.val → s.muxPend = none → selrow s s.muxLvl = some s.row) : SelectsRow s :=
  ⟨fun _ _ => hrow, fun _ hidle => flag_absurd hb hidle⟩

/-- An accepted start runs with the light window closed (43_refresh_sequencer.md R323). -/
theorem selectsRow_start {s : State} (hr : s.run = false) : SelectsRow (start s) := by
  unfold start
  split
  · exact selectsRow_of_dark (acceptedStart_busy s) (acceptedStart_oeArmed s)
  · exact selectsRow_of_stopped hr

/-- The row before the next row is the row itself. -/
theorem row_before_nextRow {s : State} (hrow : s.row < s.nrows.toNat) :
    (nextRow s + s.nrows.toNat - 1) % s.nrows.toNat = s.row := by
  unfold nextRow
  obtain hlast | hinner : s.row + 1 = s.nrows.toNat ∨ s.row + 1 < s.nrows.toNat := by omega
  · rw [hlast, Nat.mod_self, Nat.zero_add, Nat.mod_eq_of_lt (by omega)]
    omega
  · rw [Nat.mod_eq_of_lt hinner, show s.row + 1 + s.nrows.toNat - 1 = s.row + s.nrows.toNat by omega,
      Nat.add_mod_right, Nat.mod_eq_of_lt hrow]

/-! ### Operations that leave the lines and the row alone -/

section
variable {s : State} (h : SelectsRow s)
include h

theorem SelectsRow.refuseTransaction (wr : Bool) : SelectsRow (refuseTransaction wr s) := by
  cases wr <;> exact { h with }

theorem SelectsRow.shiftRow (k : Fin 2) (base : Nat) : SelectsRow (shiftRow k base s) := by
  cases hp : s.par.backend with
  | reg => rw [shiftRow_reg hp]; exact { h with }
  | pio => rw [shiftRow_pio hp]; exact { h with }

theorem SelectsRow.writeControl (en db : Bool) : SelectsRow (writeControl en db s) := by
  have he := writeControl_effect en db s
  generalize Machine.writeControl en db s = t at he ⊢
  cases he with
  | refused => exact { h with }
  | kept => exact h
  | stopped => exact selectsRow_of_stopped (stop_run s)
  | stoppedDb => exact selectsRow_of_stopped (stop_run s)
  | storedDb hr => exact selectsRow_of_stopped hr
  | started hr => exact selectsRow_start hr
  | startedDb hr => exact selectsRow_start hr

theorem SelectsRow.requestSwap (req copy : Bool) : SelectsRow (requestSwap req copy s) := by
  unfold Machine.requestSwap
  split_ifs
  · exact h
  · exact { h with }
  · exact { h with }

/-- The geometry and the polarities, by which the panel reads the lines, are written only while stopped. -/
theorem SelectsRow.execEffect {i : Instr} {t : State} (he : ExecEffect s i t) : SelectsRow t := by
  cases he with
  | misaligned => exact h.refuseTransaction _
  | ctrl d => exact { h.writeControl _ _ with }
  | swap d => exact { h.requestSwap _ _ with }
  | store _ n a d =>
    rw [memWrite_eq]
    exact { h with }
  | geom0 d hr => exact selectsRow_of_stopped hr
  | geom1 d hr => exact selectsRow_of_stopped hr
  | pol d hr => exact selectsRow_of_stopped hr
  | _ => exact { h with }

/-- The tick begins a burst at phase 0, before the mux drive (60_exceptions.md R483). -/
theorem SelectsRow.timerStep (hphase : s.phase = 0) : SelectsRow (timerStep s) := by
  have hbegin : SelectsRow { s with busy := true } :=
    selectsRow_of_burst rfl fun (hdriven : 1 ≤ s.phase.val) => absurd hdriven (by rw [hphase]; decide)
  unfold Machine.timerStep
  split_ifs
  · exact { hbegin with }
  · exact { hbegin with }
  · exact { h with }

theorem SelectsRow.copyStep : SelectsRow (copyStep s) := by
  rw [copyStep_eq]
  exact { h with }

theorem SelectsRow.shiftStep : SelectsRow (shiftStep s) := by
  rw [shiftStep_eq]
  exact { h with }

end

/-! ### The burst -/

section
variable {s : State} (h : Invariant s)
include h

/-- Phase 0 drives the lines to the burst's row, or leaves that row to the mux state machine
(43_refresh_sequencer.md R340). -/
theorem Invariant.seqPhase0_selectsRow (hr : s.run = true) (hb : s.busy = true) : SelectsRow (seqPhase0 s) := by
  obtain ⟨hc, hrow, -⟩ := h.spec.running hr
  cases hp : s.par.backend with
  | reg =>
    rw [seqPhase0_reg hp, h.appliedLevels_eq hp hr]
    exact selectsRow_of_burst hb fun _ _ => selrow_muxLevel hc hrow
  | pio =>
    rw [seqPhase0_pio hp]
    exact selectsRow_of_burst hb fun _ => nofun

/-- The MUXSM step drives the lines to the burst's row (45_backends.md R440). -/
theorem Invariant.muxsmStep_selectsRow {i : Nat} (hi : s.muxPend = some i) : SelectsRow (muxsmStep s) := by
  obtain ⟨hb, -, rfl⟩ := h.coherent.pending i hi
  obtain ⟨hc, hrow, -⟩ := h.spec.running (h.spec.run_of_busy hb)
  rw [muxsmStep_eq hi]
  exact selectsRow_of_burst hb fun _ _ => selrow_muxLevel hc hrow

/-- Phase 3 moves on to the next row, and the one the lines select is the row before it (43_refresh_sequencer.md R348). -/
theorem Invariant.seqPhase3_selectsRow (hr : s.run = true) (hsel : selrow s s.muxLvl = some s.row) :
    SelectsRow (seqPhase3 s) := by
  obtain ⟨-, hrow, -⟩ := h.spec.running hr
  rw [seqPhase3_eq]
  refine SelectsRow.shiftRow ⟨fun _ hburst => flag_absurd hburst rfl, fun _ _ _ => ?between⟩ _ _
  case between => exact hsel.trans (congrArg some (row_before_nextRow hrow).symm)

variable (hsel : SelectsRow s)
include hsel

/-- Past phase 0 a burst changes neither the lines nor, before its end, the row. -/
theorem Invariant.seqStep_selectsRow (hr : s.run = true) (hb : s.busy = true) : SelectsRow (seqStep s) := by
  obtain hp | hp | hp | hp := phase_cases s.phase
  · rw [seqStep_zero hp]
    exact h.seqPhase0_selectsRow hr hb
  · have hrow := hsel.inBurst hr hb (by simp [hp])
    rw [seqStep_one hp, seqPhase1_eq]
    exact selectsRow_of_burst hb fun _ => hrow
  · have hrow := hsel.inBurst hr hb (by simp [hp])
    obtain ⟨_, _, _, _, _, _, hboundary, -⟩ := seqPhase2_fields (s := s) fun hswap => (h.spec.swapPending hswap).1
    rw [seqStep_two hp, hboundary]
    exact selectsRow_of_burst hb fun _ => hrow
  · have hpend : s.muxPend = none := Option.eq_none_iff_forall_ne_some.mpr (h.coherent.muxPend_ne (by simp [hp]))
    rw [seqStep_three hp]
    exact h.seqPhase3_selectsRow hr (hsel.inBurst hr hb (by simp [hp]) hpend)

/-- Every turn keeps the selected row. -/
theorem Invariant.turnEffect_selectsRow {τ : Turn} {t : State} (he : TurnEffect s τ t) : SelectsRow t := by
  cases he with
  | hold => exact hsel
  | reset => exact resetInput_selectsRow s
  | timer _ hb => exact hsel.timerStep (h.spec.phaseAtRest hb)
  | seq hr hb => exact h.seqStep_selectsRow hsel hr hb
  | copy => exact hsel.copyStep
  | shift => exact hsel.shiftStep
  | muxsm _ i hi => exact h.muxsmStep_selectsRow hi
  | host w q i t _ _ _ he => exact SelectsRow.execEffect (s := { s with hostq := q }) { hsel with } he
  | illegal w q => exact SelectsRow.refuseTransaction (s := { s with hostq := q }) { hsel with } _

end

/-- Settles O54: a step is a turn, every effect of which keeps the selected row. -/
theorem stepKeepsSelectedRow : Obligations.StepKeepsSelectedRow := by
  intro s t h hsel hstep
  obtain ⟨τ, turns, turn, ht⟩ := step_takesTurn hstep
  exact (h.withOutside s.hostq turns turn).turnEffect_selectsRow { hsel with } (takeTurn_effect ht)

end Sys2Proof.Machine
end

section
/-! SUPPORT. The displayed image (45_backends.md R453, R454): which pixels are lit, and where a pixel's bit stands among the levels
shifted for its row (42_buffer_access.md R300, 20_memory.md R110). -/

namespace Sys2Proof.Machine

/-! ### The lit pixels -/

/-- The three conditions of `lit` (45_backends.md R453). -/
theorem lit_iff (s : State) (p x y : Nat) : lit s p x y = true ↔
    oeActive s = true ∧ selrow s s.muxLvl = some (y % s.nrows.toNat)
      ∧ (s.panelLr.getD (chainPos s p x y) s.dataInv ^^ s.dataInv) = true := by
  simp only [lit, Bool.and_eq_true, beq_iff_eq, and_assoc]

/-- With the output active the lines select the row before `s.row` (45_backends.md R454). -/
theorem SelectsRow.selrow_of_oeActive {s : State} (h : SelectsRow s) (ha : oeActive s = true) :
    selrow s s.muxLvl = some ((s.row + s.nrows.toNat - 1) % s.nrows.toNat) := by
  obtain ⟨hr, hb, harm, -⟩ := (oeActive_iff s).mp ha
  exact h.between hr hb harm

theorem not_lit_of_not_oeActive {s : State} (ha : oeActive s = false) (p x y : Nat) : lit s p x y = false := by
  rw [lit, ha, Bool.false_and, Bool.false_and]

/-- A lit pixel is one of the row before `s.row`, and every such pixel shows its latched level. -/
theorem SelectsRow.lit_iff {s : State} (h : SelectsRow s) (p x y : Nat) : lit s p x y = true ↔
    oeActive s = true ∧ y % s.nrows.toNat = (s.row + s.nrows.toNat - 1) % s.nrows.toNat
      ∧ (s.panelLr.getD (chainPos s p x y) s.dataInv ^^ s.dataInv) = true := by
  rw [Machine.lit_iff]
  refine and_congr_right fun ha => and_congr_left fun _ => ?_
  rw [h.selrow_of_oeActive ha, Option.some_inj, eq_comm]

/-! ### A pixel's place in the chain -/

/-- A panel's pixel has its place in the chain (42_buffer_access.md R300). -/
theorem chainPos_lt {s : State} (h : cfgValid s = true) {p x y : Nat} (hp : p < numPanels s) (hx : x < s.pw.toNat)
    (hy : y < s.ph.toNat) : chainPos s p x y < chainBits s := by
  have hchain : chainBits s = numPanels s * groupLines s * s.pw.toNat := by
    rw [chainBits, rowBytes_eq h, Nat.mul_comm, Nat.mul_assoc, lineBytes_mul h]
  rw [hchain]
  exact digits_lt (digits_lt hp (line_div_lt h hy)) hx

/-- The place in the chain is that of the bit in the row's bytes, most significant first (42_buffer_access.md R300). -/
theorem chainPos_eq {s : State} (h : cfgValid s = true) (p x y : Nat) :
    chainPos s p x y = ((p * groupLines s + y / s.nrows.toNat) * (s.pw.toNat / 8) + x / 8) * 8 + x % 8 := by
  rw [Nat.add_mul, Nat.mul_assoc, lineBytes_mul h, Nat.add_assoc, Nat.div_add_mod', chainPos]

/-! ### A pixel's level in the row -/

theorem getElem?_byteLevels (v : Byte) (s : State) {i : Nat} (hi : i < 8) :
    (byteLevels v s)[i]? = some (v.getLsbD (7 - i) ^^ s.dataInv) := by
  interval_cases i <;> rfl

/-- The level at place `i` of byte `j` of a row. -/
theorem getElem?_rowLevels (k : Fin 2) (base : Nat) (s : State) {n j i : Nat} (hj : j < n) (hi : i < 8) :
    (rowLevels k base n s)[j * 8 + i]? = some ((bufRead k (base + j) s).getLsbD (7 - i) ^^ s.dataInv) := by
  induction n generalizing base j with
  | zero => omega
  | succ n ih =>
    rw [rowLevels_succ]
    cases j with
    | zero =>
      rw [Nat.zero_mul, Nat.zero_add, List.getElem?_append_left hi]
      exact getElem?_byteLevels _ s hi
    | succ j =>
      have hplace : (j + 1) * 8 + i - 8 = j * 8 + i := by omega
      rw [List.getElem?_append_right (by rw [byteLevels_length]; omega), byteLevels_length, hplace,
        ih (base + 1) (by omega), show base + 1 + j = base + (j + 1) by omega]

/-- The level shifted for a pixel is its bit of the slot XOR `DATA_INV` (20_memory.md R110, 45_backends.md R454). -/
theorem getElem?_rowLevels_chainPos {s : State} (h : cfgValid s = true) (k : Fin 2) {p x y : Nat} (hp : p < numPanels s)
    (hx : x < s.pw.toNat) (hy : y < s.ph.toNat) :
    (rowLevels k (y % s.nrows.toNat * rowBytes s) (rowBytes s) s)[chainPos s p x y]?
      = some ((bufRead k (pixAddrPanel s p x y).byte s).getLsbD (pixAddrPanel s p x y).bit ^^ s.dataInv) := by
  have hcol : x / 8 < s.pw.toNat / 8 := by have := lineBytes_mul h; omega
  have hbyte := byteInRow_lt h hp (line_div_lt h hy) hcol
  rw [chainPos_eq h, getElem?_rowLevels k _ s hbyte (Nat.mod_lt x (by decide)), ← Nat.add_assoc]
  rfl

/-- Settles O55: the conditions of `lit` with the row the lines select, and the pixel's place in the chain. -/
theorem onlySelectedRowIsLit : Obligations.OnlySelectedRowIsLit := by
  intro s p x y place
  refine ⟨?dark, ?selected, ?exactly, ?shifted⟩
  case dark =>
    intro hoff
    obtain ⟨hdark, -⟩ := outputEnableWindow s
    exact not_lit_of_not_oeActive (hdark (hoff.imp_right .inl)) p x y
  case selected =>
    intro _ hsel hlit
    obtain ⟨-, hrow, -⟩ := (hsel.lit_iff p x y).mp hlit
    exact hrow
  case exactly =>
    intro h hsel hr hp hx hy
    obtain ⟨hc, -⟩ := h.spec.running hr
    obtain ⟨-, hlr⟩ := h.coherent.panel hr
    have hlevel : s.panelLr[place]? = some _ := List.getElem?_eq_getElem (hlr ▸ chainPos_lt hc hp hx hy)
    refine ⟨_, hlevel, ?_⟩
    rw [hsel.lit_iff, List.getD_eq_getElem?_getD, show chainPos s p x y = place from rfl, hlevel, Option.getD_some]
  case shifted => exact fun hc hp hx hy k => getElem?_rowLevels_chainPos hc k hp hx hy

end Sys2Proof.Machine
end

section
/-! SUPPORT. The reset and the configuration (70_reset_and_hazards.md R530, R551): what power-on and the reset input leave, and
that a running block keeps its configuration registers and its mux mask table. -/

namespace Sys2Proof.Machine

/-! ### The configuration of a running block -/

/-- The configuration registers (00_scope.md R11) and the mux mask table generated from them (10_state.md R44). -/
def configuration (s : State) : BitVec 8 × BitVec 8 × BitVec 4 × BitVec 4 × BitVec 6 × BitVec 6 × Bool × Bool × Bool × Bool
    × MuxTab × MuxTab :=
  (s.pw, s.ph, s.nx, s.ny, s.nrows, s.muxcnt, s.selLvl, s.dataInv, s.oeLow, s.db, s.muxset, s.muxclr)

theorem configuration_eq_iff {s t : State} : configuration t = configuration s ↔ SameConfig s t ∧ SameTable s t := by
  simp [configuration, SameConfig, SameTable, and_assoc]

@[simp] theorem configuration_refuseTransaction (wr : Bool) (s : State) :
    configuration (refuseTransaction wr s) = configuration s := by
  cases wr <;> rfl

@[simp] theorem configuration_memWrite (a n : Nat) (v : Word) (s : State) :
    configuration (memWrite a n v s) = configuration s := by
  rw [memWrite_eq]; rfl

@[simp] theorem configuration_requestSwap (req copy : Bool) (s : State) :
    configuration (requestSwap req copy s) = configuration s := by
  unfold requestSwap
  split_ifs <;> rfl

@[simp] theorem configuration_applyMux (k : Nat) (s : State) : configuration (applyMux k s) = configuration s := by
  simp [configuration]

@[simp] theorem configuration_shiftRow (k : Fin 2) (base : Nat) (s : State) :
    configuration (shiftRow k base s) = configuration s := by
  simp [configuration]

/-- A reload at the tick computes the timing only (43_refresh_sequencer.md R331). -/
@[simp] theorem configuration_timerStep (s : State) : configuration (timerStep s) = configuration s := by
  unfold timerStep
  split_ifs <;> rfl

/-- No sub-phase of a burst touches it, the exchange at the frame boundary included. -/
@[simp] theorem configuration_seqStep (s : State) : configuration (seqStep s) = configuration s := by
  obtain h | h | h | h := phase_cases s.phase
  · rw [seqStep_zero h]
    exact configuration_applyMux _ _
  · rw [seqStep_one h, seqPhase1_eq]; rfl
  · rw [seqStep_two h, seqPhase2_eq]
    split_ifs <;> rfl
  · rw [seqStep_three h]
    exact configuration_shiftRow _ _ s

section
variable {s t : State} (hr : s.run = true)
include hr

/-- A `CTRL` write changes `DB` or generates a table only if it stops the block or finds it stopped
(40_host_registers.md R203). -/
theorem configuration_writeControl {en db : Bool} (hrun : (writeControl en db s).run = true) :
    configuration (writeControl en db s) = configuration s := by
  have he := writeControl_effect en db s
  generalize writeControl en db s = t at he hrun ⊢
  cases he with
  | refused => rfl
  | kept => rfl
  | stopped => exact flag_absurd hrun (stop_run s)
  | stoppedDb => exact flag_absurd hrun (stop_run s)
  | storedDb hstopped => exact flag_absurd hr hstopped
  | started hstopped => exact flag_absurd hr hstopped
  | startedDb hstopped => exact flag_absurd hr hstopped

/-- A geometry or polarity write to a running block is refused (R215, R217, R219). -/
theorem configuration_execEffect {i : Instr} (he : ExecEffect s i t) (hrun : t.run = true) :
    configuration t = configuration s := by
  cases he with
  | misaligned _ wr => exact configuration_refuseTransaction wr s
  | ctrl d => exact configuration_writeControl hr hrun
  | swap d => exact configuration_requestSwap _ _ s
  | store _ n a d => exact configuration_memWrite _ n d s
  | geom0 d hstopped => exact flag_absurd hr hstopped
  | geom1 d hstopped => exact flag_absurd hr hstopped
  | pol d hstopped => exact flag_absurd hr hstopped
  | _ => rfl

/-- A turn in which the block keeps running leaves its configuration (R551). -/
theorem configuration_turnEffect {τ : Turn} (he : TurnEffect s τ t) (hrun : t.run = true) :
    configuration t = configuration s := by
  cases he with
  | hold => rfl
  | reset => exact flag_absurd hrun rfl
  | timer => exact configuration_timerStep s
  | seq => exact configuration_seqStep s
  | copy => rfl
  | shift => rw [shiftStep_eq]; rfl
  | muxsm _ i hi => rw [muxsmStep_eq hi]; rfl
  | host w q i _ _ _ _ he => exact configuration_execEffect (s := { s with hostq := q }) hr he hrun
  | illegal w q => exact configuration_refuseTransaction _ { s with hostq := q }

end

/-- Settles O43: by what a turn can do to a block that runs before and after it. -/
theorem configurationFixedWhileRunning : Obligations.ConfigurationFixedWhileRunning := fun _ _ _ ht hr hrun =>
  configuration_eq_iff.mp (configuration_turnEffect hr (takeTurn_effect ht) hrun)

/-! ### The values at reset -/

/-- Power-on and the reset input leave the same record, but for the panel's unspecified bits and what is outside the block. -/
theorem eq_resetInput {s : State} (h : s = Sys2Proof.core.reset ∨ ∃ u, takeTurn .reset u = .next s) :
    ∃ u, s = resetInput u := by
  obtain rfl | ⟨u, hu⟩ := h
  · exact ⟨_, reset_eq_resetInput⟩
  · exact ⟨u, (Host.Outcome.next.inj hu).symm⟩

/-- The empty store reads as unlisted everywhere (10_state.md R53). -/
theorem bufRead_resetInput (k : Fin 2) (i : Nat) (u : State) : bufRead k i (resetInput u) = 0x00#8 := by
  unfold bufRead
  split_ifs <;> rfl

/-- Every entry of both halves of the table is 0 (10_state.md R44). -/
theorem muxTable_resetInput (u : State) {i : Nat} (hi : i ≤ 32) :
    (resetInput u).muxset[i]? = some 0#32 ∧ (resetInput u).muxclr[i]? = some 0#32 := by
  have hentry : (Vector.replicate 33 0#32)[i]? = some 0#32 := by
    rw [Vector.getElem?_replicate, if_pos (Nat.lt_succ_of_le hi)]
  exact ⟨hentry, hentry⟩

/-- Settles O49: both leave the record of `State.resetAt`, whose fields are the values of R530; the table and the buffers, which
are read entry by entry, have their own lemmas. -/
theorem resetValues : Obligations.ResetValues := by
  refine ⟨takeTurn_next .reset, fun s hs => ?_⟩
  obtain ⟨u, rfl⟩ := eq_resetInput hs
  and_intros
  any_goals rfl
  · exact fun _ => muxTable_resetInput u
  · exact fun k i => bufRead_resetInput k i u

end Sys2Proof.Machine
end
